-- ==== Sys2Proof/Word.lean ====
section
/-! DEFINITION. The words of the command port and the complex element of the symbol buffers.

R12 fixes bit 0 as the least significant bit; R90 the 16-bit command word; R95 the 32-bit response word; R25 and R30
the complex element `(re, im)` of the carrier `R` of real values (R8). -/

namespace Sys2Proof

/-- One byte of a Data Vector (R7, R63). -/
abbrev Byte := BitVec 8

/-- One command word (R90). -/
abbrev CmdWord := BitVec 16

/-- The 32-bit data word of a response (R95). -/
abbrev DataWord := BitVec 32

/-- A phase code, `c` standing for the angle `c·45°` (R22, R97). -/
abbrev PhaseCode := BitVec 3

/-- A 2-bit value of a Data Vector field (R67). -/
abbrev Dibit := BitVec 2

/-- A complex value `(re, im)` over a carrier `R` of real values (R12). -/
structure Cpx (R : Type) where
  re : R
  im : R
deriving DecidableEq, Repr

end Sys2Proof
end

