-- ==== Sys2Proof/Syntax.lean ====
section
/-! DEFINITION. The commands of the block: one constructor for each row of spec/opcode_table.json (R91, R94). -/

namespace Sys2Proof

/-- A decoded command. -/
inductive Instr where
  /-- `NOP` (R220). -/
  | nop
  /-- `RST` (R221). -/
  | rst
  /-- `TXTICK A=a`: `a` says that an output buffer is available (R92, R222). -/
  | txtick (a : Bool)
  /-- `RXTICK V=v`: `v` says that an input block accompanies the command on `RXIN` (R92, R223). -/
  | rxtick (v : Bool)
  /-- `RDSTS` (R224). -/
  | rdsts
  /-- `RDTXC` (R225). -/
  | rdtxc
  /-- `RDRXC` (R226). -/
  | rdrxc
  /-- `RDPLT p`: `p` is the pilot pair index, 12 bits in the word (R92, R227). -/
  | rdplt (p : Nat)
  /-- A word of the reserved range `op = 0x8..0xF`; `x` is its bits 14:0 (R91, R94). -/
  | reserved (x : Nat)
deriving DecidableEq, Repr

end Sys2Proof
end

