-- ==== Sys2Proof/WellFormed.lean ====
section
/-! DEFINITION. Which commands have an encoding: the operands that fit their fields (R92, R94). -/

namespace Sys2Proof

/-- `RDPLT` has 12 bits for the pair index (R92) and a reserved word has 15 bits beside its top bit (R94); every other
operand fits by its type. -/
def Instr.wf : Instr → Bool
  | .nop => true
  | .rst => true
  | .txtick _ => true
  | .rxtick _ => true
  | .rdsts => true
  | .rdtxc => true
  | .rdrxc => true
  | .rdplt p => decide (p < 4096)
  | .reserved x => decide (x < 32768)

end Sys2Proof
end

