-- ==== Sys2Proof/Decode.lean ====
section
/-! DEFINITION. Decoding and encoding of the command word (R90 to R94, R101, R102, R105). -/

namespace Sys2Proof

/-- `v[hi:lo]` of R12: the field of `v` from bit `hi` down to bit `lo`, as an unsigned integer. -/
def bits {w : Nat} (v : BitVec w) (hi lo : Nat) : Nat :=
  v.toNat / 2 ^ lo % 2 ^ (hi + 1 - lo)

/-- `op = cmd[15:12]` (R90, R105). -/
def opField (w : CmdWord) : Nat := bits w 15 12

/-- `arg = cmd[11:0]` (R90). -/
def argField (w : CmdWord) : Nat := bits w 11 0

/-- Why a word stands for no command: its operation code is one of R220 to R226 and a bit that must be zero is set
(R93). Such a word is `BadCommand` (R94); the step answers so. -/
inductive Reject where
  /-- Operation code and operand of the rejected word. -/
  | mustBeZero (op arg : Nat)
deriving DecidableEq, Repr

/-- A command whose twelve operand bits must be zero (R93). -/
def plainCmd (op arg : Nat) (i : Instr) : Except Reject Instr :=
  if arg = 0 then .ok i else .error (.mustBeZero op arg)

/-- A command whose operand is bit 0 and whose bits 11:1 must be zero (R92, R93). -/
def flagCmd (op arg : Nat) (i : Bool → Instr) : Except Reject Instr :=
  if arg / 2 = 0 then .ok (i (decide (arg = 1))) else .error (.mustBeZero op arg)

/-- The decoder: total on all words (R90 to R94). -/
def decode (w : CmdWord) : Except Reject Instr :=
  match opField w with
  | 0 => plainCmd 0 (argField w) .nop
  | 1 => plainCmd 1 (argField w) .rst
  | 2 => flagCmd 2 (argField w) .txtick
  | 3 => flagCmd 3 (argField w) .rxtick
  | 4 => plainCmd 4 (argField w) .rdsts
  | 5 => plainCmd 5 (argField w) .rdtxc
  | 6 => plainCmd 6 (argField w) .rdrxc
  | 7 => .ok (.rdplt (argField w))
  | _ => .ok (.reserved (bits w 14 0))

/-- A command word from its two fields (R90). -/
def cmdWord (op arg : Nat) : CmdWord := BitVec.ofNat 16 (op * 4096 + arg)

/-- The encoder, from the table of R91 and the encodings of R101. -/
def encode : Instr → CmdWord
  | .nop => cmdWord 0 0
  | .rst => cmdWord 1 0
  | .txtick a => cmdWord 2 a.toNat
  | .rxtick v => cmdWord 3 v.toNat
  | .rdsts => cmdWord 4 0
  | .rdtxc => cmdWord 5 0
  | .rdrxc => cmdWord 6 0
  | .rdplt p => cmdWord 7 p
  | .reserved x => cmdWord 8 x

/-- The command read from a word numbered as spec/opcode_table.json numbers it. Every row has 16 bits and a command is
one whole word (R69, R105), so the word is given to the decoder as it is. -/
def decodeTableWord (_nbits w : Nat) : Option Instr :=
  match decode (BitVec.ofNat 16 w) with
  | .ok i => some i
  | .error _ => none

/-- The pseudo-instruction `TICK A=a, V=v`: `RXTICK V=v` followed by `TXTICK A=a` (R102, R228). -/
def tickWords (a v : Bool) : List CmdWord := [encode (.rxtick v), encode (.txtick a)]

/-- `0` or `1`, as the operands `A` and `V` are written (R101). -/
def flagText (b : Bool) : String := if b then "1" else "0"

/-- Samples separated by commas (R101). -/
def samplesText : List String → String
  | [] => ""
  | [s] => s
  | s :: t => s ++ ", " ++ samplesText t

/-- The textual form of a command (R101); `block` is the text of the samples written after `RXTICK V=1`. A reserved
word has no text form in the spec and is written as its mnemonic of the opcode table. -/
def asmText (block : List String) : Instr → String
  | .nop => "NOP"
  | .rst => "RST"
  | .txtick a => "TXTICK A=" ++ flagText a
  | .rxtick true => "RXTICK V=1 [" ++ samplesText block ++ "]"
  | .rxtick false => "RXTICK V=0"
  | .rdsts => "RDSTS"
  | .rdtxc => "RDTXC"
  | .rdrxc => "RDRXC"
  | .rdplt p => "RDPLT " ++ toString p
  | .reserved _ => "RESERVED"

end Sys2Proof
end

