-- ==== Sys2Proof/Config.lean ====
section
/-! DEFINITION. What an implementation fixes: the configuration record `CFG` (R6), the numerics record `NUM` (R8), the
external transform pair `XF` (R9), and the free values: opaque constants, so that no proof can see what they are. -/

namespace Sys2Proof

/-- The plain-data fields of `CFG` (R6). Everything else of R6 is derived from these (Machine/Params.lean) or is a
field of `Num` or `Xf`. -/
structure Cfg where
  /-- `N`: transform length, samples per symbol. -/
  n : Nat
  /-- `B`: samples per sample block. -/
  b : Nat
  /-- `CHANNEL_MIN`: lowest active bin. -/
  channelMin : Nat
  /-- `CHANNELS`: number of active bins, pilots included. -/
  channels : Nat
  /-- `CHUNK_DATA`: data channels per chunk. -/
  chunkData : Nat
  /-- `PILOT_OFS`: where the pilot pair sits inside a chunk group. -/
  pilotOfs : Nat
  /-- `OFFSET`: the constant added to the phase code each symbol; an integer, so that `-3` can be written (R143). -/
  offset : Int
  /-- `ALPHA`: the pilot smoothing gain. -/
  alpha : Rat
  /-- `TX_SEED[d]`; an absent entry is the default 0 (log 22). -/
  txSeed : List PhaseCode
  /-- `N_SUPPORTED`: the transform lengths the external transform provides. -/
  nSupported : List Nat
  /-- `CNT_W`: the width of the symbol counters. -/
  cntW : Nat
deriving DecidableEq, Repr

/-- The numerics record `NUM` (R8) over a type `R`, apart from the constants 0 and 1, the four operations and the order:
those are the operations that `R` comes with, taken as arguments (`Zero`, `One`, `Add`, `Sub`, `Neg`, `Mul`,
`LinearOrder`) and bound by no law, so that a format that rounds is an instance (Machine/Rounded.lean) as well as an exact
one. `PI`, `TWO_PI`, `COS8` are computed from the fields, so that the laws R8 lists hold by construction
(Machine/Numerics.lean). -/
structure Num (R : Type) where
  /-- `HALF_PI`. -/
  halfPi : R
  /-- `ALPHA`. -/
  alpha : R
  /-- `COS8[1]`, the cosine of 45° (R97). -/
  cos45 : R
  /-- The window table: `window B j` is `W[j]` of the table for blocks of `B` samples (R195). -/
  window : Nat → Nat → R
  /-- `ATAN2(y, x)`, total: `ATAN2(0, 0)` is the open field `ATAN2_00` (R8, U3). -/
  atan2 : R → R → R

/-- The external transform pair `XF = (IFFT_EXT, FFT_EXT)` (R9). -/
structure Xf (R : Type) where
  ifft : List (Cpx R) → List (Cpx R)
  fft : List (Cpx R) → List (Cpx R)

/-- `CFG` whole, as R6 lists it: plain data, numerics and transform pair. -/
structure Build (R : Type) where
  cfg : Cfg
  num : Num R
  xf : Xf R

/-- What a step of the block depends on beside its state: `NUM` and `XF` of the configuration (R6), and the values of `R`
that the spec leaves unspecified (logs 10 and 13). Every operation, command and step of the block is a function of an
environment over any `R`. -/
structure Env (R : Type) where
  /-- `NUM` (R8) of an instance with the configuration. -/
  num : Cfg → Num R
  /-- `XF` (R9). -/
  xf : Xf R
  /-- What `rx_phase[d]` holds after the command `RST` (log 10). -/
  unspecPhase : Nat → R
  /-- What the `RXIN` port reads as at sample `j` of step `k` when nothing drives it (log 13). -/
  undrivenSample : Nat → Nat → R

/-- `CFG` whole (R6) for an instance in an environment. -/
def Env.build {R : Type} (X : Env R) (c : Cfg) : Build R := { cfg := c, num := X.num c, xf := X.xf }

/-- FREE VALUE, log 4: the build's `HALF_PI` before it is brought into its bracket. -/
opaque Config.halfPi : Rat

/-- FREE VALUE, log 5: the build's `COS8[1]` before it is brought into its bracket. -/
opaque Config.cos45 : Rat

/-- FREE VALUE, log 6: the build's window table for blocks of `B` samples before R195's properties are imposed. -/
opaque Config.window : Nat → Nat → Rat

/-- FREE VALUE, log 7: the build's `ATAN2(y, x)` before it is brought into `[-PI, PI]`; at `(0, 0)` it is `ATAN2_00`. -/
opaque Config.atan2 : Rat → Rat → Rat

/-- FREE VALUE, log 8: the external inverse transform `IFFT_EXT`. -/
opaque Config.ifftExt : List (Cpx Rat) → List (Cpx Rat)

/-- FREE VALUE, log 8: the external forward transform `FFT_EXT`. -/
opaque Config.fftExt : List (Cpx Rat) → List (Cpx Rat)

/-- FREE VALUE, log 10: what byte `j` of `tx_dv` holds after the command `RST`. -/
opaque Config.unspecByte : Nat → Byte

/-- FREE VALUE, log 10: what `rx_phase[d]` holds after the command `RST`. -/
opaque Config.unspecPhase : Nat → Rat

/-- FREE VALUE, log 13: what the `RXIN` port reads as at sample `j` of step `k` when nothing drives it. -/
opaque Config.undrivenSample : Nat → Nat → Rat

/-- FREE VALUE, log 13: what the `DATASOURCE` port reads as at byte `j` of step `k` when nothing drives it. -/
opaque Config.undrivenByte : Nat → Nat → Byte

/-- FREE VALUE, log 15: the 32-bit data word for a counter value that does not fit 32 bits (`CNT_W > 32`). -/
opaque Config.wideCounter : Nat → DataWord

end Sys2Proof
end

