-- ==== Sys2Proof/Machine/Params.lean ====
section
/-! DEFINITION. Quantities derived from `CFG` (R6, R7, R10) and the configuration of `State.reset` (log 2). -/

namespace Sys2Proof

/-- `K = N / B`: sample blocks per symbol (R6). -/
def Cfg.k (c : Cfg) : Nat := c.n / c.b

/-- `CHANNEL_MAX = CHANNEL_MIN + CHANNELS - 1` (R6). -/
def Cfg.channelMax (c : Cfg) : Nat := c.channelMin + c.channels - 1

/-- `G = CHUNK_DATA + 2`: channels per chunk group (R6). -/
def Cfg.g (c : Cfg) : Nat := c.chunkData + 2

/-- `P = CHANNELS / G`: pilot pairs (R6). -/
def Cfg.p (c : Cfg) : Nat := c.channels / c.g

/-- `D = P * CHUNK_DATA`: data channels (R6). -/
def Cfg.d (c : Cfg) : Nat := c.p * c.chunkData

/-- `DVLEN = (D + 3) div 4`: bytes per Data Vector (R7). -/
def Cfg.dvlen (c : Cfg) : Nat := (c.d + 3) / 4

/-- `N` is a power of two. -/
def isPow2 (n : Nat) : Bool := decide (n = 2 ^ Nat.log2 n)

/-- `VALID(CFG)`, clauses (a) to (e) of R10. -/
def Cfg.valid (c : Cfg) : Bool :=
  (isPow2 c.n && decide (c.n ∈ c.nSupported)) &&
  (decide (1 ≤ c.b) && decide (c.b ∣ c.n) && decide (2 ≤ c.k)) &&
  (decide (1 ≤ c.channelMin) && decide (1 ≤ c.channels) && decide (c.channelMax + 1 ≤ c.n / 2)) &&
  (decide (1 ≤ c.chunkData) && decide (c.channels % c.g = 0) && decide (c.pilotOfs ≤ c.chunkData)) &&
  decide (c.p ≤ 4096)

/-- The configuration `State.reset` holds: the defaults of R6, and for the two fields the spec leaves OPEN the example
values `CHANNELS = 40`, `CHUNK_DATA = 8` of R127 (DESIGN CHOICE, log 2). -/
def defaultCfg : Cfg where
  n := 1024
  b := 128
  channelMin := 8
  channels := 40
  chunkData := 8
  pilotOfs := 0
  offset := 5
  alpha := 1 / 50
  txSeed := []
  nSupported := [1024]
  cntW := 32

end Sys2Proof
end

