-- ==== Sys2Proof/Machine/Alloc.lean ====
section
/-! DEFINITION. The subcarrier allocator `ALLOC` and the role of a bin (R120 to R124). -/

namespace Sys2Proof

/-- What `ALLOC` computes: constants of the instance, not state (R34). -/
structure Layout where
  /-- `P`, the number of pilot pairs. -/
  p : Nat
  /-- `D`, the number of data channels. -/
  d : Nat
  /-- `DVLEN`, the number of bytes of a Data Vector. -/
  dvlen : Nat
  /-- `DATA_BIN[0..D-1]`. -/
  dataBin : List Nat
  /-- `PILOT1_BIN[0..P-1]`. -/
  pilot1 : List Nat
  /-- `PILOT2_BIN[0..P-1]`. -/
  pilot2 : List Nat
deriving DecidableEq, Repr

namespace Machine

/-- `base_q = CHANNEL_MIN + q*G` (R122). -/
def groupBase (c : Cfg) (q : Nat) : Nat := c.channelMin + q * c.g

/-- `PILOT1_BIN[q]` (R123). -/
def pilot1Bin (c : Cfg) (q : Nat) : Nat := groupBase c q + c.pilotOfs

/-- `PILOT2_BIN[q]` (R123). -/
def pilot2Bin (c : Cfg) (q : Nat) : Nat := groupBase c q + c.pilotOfs + 1

/-- The bin of the `r`-th data channel of group `q` (R123). -/
def groupDataBin (c : Cfg) (q r : Nat) : Nat := groupBase c q + r + (if r < c.pilotOfs then 0 else 2)

/-- `DATA_BIN[d]` for `d = q*CHUNK_DATA + r` (R123). -/
def dataBin (c : Cfg) (d : Nat) : Nat := groupDataBin c (d / c.chunkData) (d % c.chunkData)

/-- `ALLOC(CFG)` (R124); none is `InvalidConfiguration`. -/
def alloc (c : Cfg) : Option Layout :=
  if c.valid then
    some
      { p := c.p
        d := c.d
        dvlen := c.dvlen
        dataBin := (List.range c.d).map (dataBin c)
        pilot1 := (List.range c.p).map (pilot1Bin c)
        pilot2 := (List.range c.p).map (pilot2Bin c) }
  else none

/-- The layout of an instance whose configuration is invalid: `P`, `D`, `DVLEN` are 0 (R271). -/
def emptyLayout : Layout := { p := 0, d := 0, dvlen := 0, dataBin := [], pilot1 := [], pilot2 := [] }

/-- The layout the instance was built with. -/
def layout (c : Cfg) : Layout := (alloc c).getD emptyLayout

end Machine

/-- The roles of R123. -/
inductive Role where
  | data (d : Nat)
  | pilot1 (p : Nat)
  | pilot2 (p : Nat)
  | mirror (i : Nat)
  | unused
deriving DecidableEq, Repr

namespace Machine

/-- The role of an active bin, from the shape of a group (R122, R123). -/
def activeRole (c : Cfg) (i : Nat) : Role :=
  let q := (i - c.channelMin) / c.g
  let o := (i - c.channelMin) % c.g
  if o = c.pilotOfs then .pilot1 q
  else if o = c.pilotOfs + 1 then .pilot2 q
  else if o < c.pilotOfs then .data (q * c.chunkData + o)
  else .data (q * c.chunkData + (o - 2))

/-- `i` is an active bin (R16). -/
def isActive (c : Cfg) (i : Nat) : Bool := decide (c.channelMin ≤ i) && decide (i ≤ c.channelMax)

/-- `ROLE(i)` of R123. -/
def role (c : Cfg) (i : Nat) : Role :=
  if isActive c i then activeRole c i
  else if i ≤ c.n && isActive c (c.n - i) then .mirror (c.n - i)
  else .unused

end Machine

end Sys2Proof
end

