-- ==== Sys2Proof/Machine/Numerics.lean ====
section
/-! DEFINITION. The numerics of R8: constants and laws derived from a `Num` record, `NORM` (R164), `SECTOR` (R165),
the Gray table (R96), the phase code (R97), and the numerics record of the machine over exact rationals (logs 3 to 7). -/

namespace Sys2Proof

section
variable {R : Type}

/-- `PI = HALF_PI + HALF_PI` (R8). -/
def Num.pi [Add R] (m : Num R) : R := m.halfPi + m.halfPi

/-- `TWO_PI = PI + PI` (R8). -/
def Num.twoPi [Add R] (m : Num R) : R := m.pi + m.pi

/-- `COS8[c]` (R97), written with the symmetries R8 lists: `COS8[c] = COS8[8-c]`, `COS8[c+4 mod 8] = -COS8[c]`. -/
def Num.cos8 [Zero R] [One R] [Neg R] (m : Num R) (c : PhaseCode) : R :=
  match c.toNat with
  | 0 => 1
  | 1 => m.cos45
  | 2 => 0
  | 3 => -m.cos45
  | 4 => -1
  | 5 => -m.cos45
  | 6 => 0
  | _ => m.cos45

/-- `SIN8[c] = COS8[(c + 6) mod 8]` (R97). -/
def Num.sin8 [Zero R] [One R] [Neg R] (m : Num R) (c : PhaseCode) : R := m.cos8 (c + 6)

/-- The complex value `(0, 0)`. -/
def Cpx.zero [Zero R] : Cpx R := ⟨0, 0⟩

/-- `conj((re, im)) = (re, -im)` (R12). -/
def Cpx.conj [Neg R] (z : Cpx R) : Cpx R := ⟨z.re, -z.im⟩

/-- `Re(z)` as a complex value, `(Re z, 0)`: a sample on ingestion (R62, R9). -/
def Cpx.ofReal [Zero R] (x : R) : Cpx R := ⟨x, 0⟩

namespace Machine

/-- The constellation point of a phase code (R97, R146). -/
def point [Zero R] [One R] [Neg R] (m : Num R) (c : PhaseCode) : Cpx R := ⟨m.cos8 c, m.sin8 c⟩

/-- The pilot point `(COS8[0], COS8[6])` (R147). -/
def pilotPoint [Zero R] [One R] [Neg R] (m : Num R) : Cpx R := ⟨m.cos8 0, m.cos8 6⟩

/-- `ATAN2(Im z, Re z)` (R162, R181). -/
def angle (m : Num R) (z : Cpx R) : R := m.atan2 z.im z.re

/-- `NORM(x)` (R164). -/
def normAngle [Add R] [Sub R] [Neg R] [LinearOrder R] (m : Num R) (x : R) : R :=
  if m.pi ≤ x then x - m.twoPi else if x < -m.pi then x + m.twoPi else x

/-- `diff <- NORM(-(a - stored))` (R164). -/
def phaseDiff [Add R] [Sub R] [Neg R] [LinearOrder R] (m : Num R) (a stored : R) : R := normAngle m (-(a - stored))

/-- `SECTOR(diff)` (R99, R165). -/
def sector [Zero R] [Neg R] [LinearOrder R] (m : Num R) (diff : R) : Dibit :=
  if 0 ≤ diff then (if m.halfPi < diff then 2 else 3)
  else (if diff < -m.halfPi then 0 else 1)

/-- `x` brought into `[lo, hi]`. -/
def clamp [LinearOrder R] (lo hi x : R) : R := if x < lo then lo else if hi < x then hi else x

end Machine

end

namespace Machine

/-- The Gray table (R96). -/
def grayTable : List Dibit := [0, 1, 3, 2]

/-- `GRAY[b]` (R96, R142). -/
def gray (b : Dibit) : Dibit := grayTable.getD b.toNat 0

/-- The rising table's values up to the middle of the block: 0 at 0, never falling, at most 1/2. -/
def windowRise (raw : Nat → Rat) : Nat → Rat
  | 0 => 0
  | j + 1 => max (windowRise raw j) (clamp 0 (1 / 2) (raw (j + 1)))

/-- The window table with R195's properties imposed on free values: `W[0] = 0`, `W[B] = 1`, never falling, and
`W[j] + W[B-j] = 1`. Every table with these properties is reached by some free values (log 6). -/
def windowOf (raw : Nat → Nat → Rat) (b j : Nat) : Rat :=
  if 2 * j < b then windowRise (raw b) j
  else if 2 * j = b then 1 / 2
  else 1 - windowRise (raw b) (b - j)

/-- The numerics record of the machine (R8) over exact rationals: exact arithmetic, and for the constants and the
function that no rational equals, free values with the properties R8 and R195 state (logs 3 to 7). -/
def num (c : Cfg) : Num Rat where
  halfPi := clamp (157 / 100) (158 / 100) Config.halfPi
  alpha := c.alpha
  cos45 := clamp (7 / 10) (71 / 100) Config.cos45
  window := windowOf Config.window
  atan2 := fun y x =>
    let h := clamp (157 / 100) (158 / 100) Config.halfPi
    clamp (-(h + h)) (h + h) (Config.atan2 y x)

/-- The external transform pair of the machine (R9): free (log 8). -/
def xf : Xf Rat := { ifft := Config.ifftExt, fft := Config.fftExt }

/-- The environment of the machine. -/
def machineEnv : Env Rat where
  num := num
  xf := xf
  unspecPhase := Config.unspecPhase
  undrivenSample := Config.undrivenSample

/-- `CFG` whole (R6) for an instance of the machine. -/
def build (c : Cfg) : Build Rat := { cfg := c, num := num c, xf := xf }

end Machine

end Sys2Proof
end

