-- ==== Sys2Proof/Machine/Operands.lean ====
section
/-! DEFINITION. Operands: the 2-bit fields of a Data Vector (R67, R68), the ports' blocks brought to their fixed length
(R60, R70), and the length of a transform's vectors (R9). The operands of a command word (R92) are assembled in
Decode.lean. -/

namespace Sys2Proof

namespace Machine

/-- The bit position of field `d` in its byte (R67). -/
def fieldShift (d : Nat) : Nat := 2 * (d % 4)

/-- `DVGET(dv, d)` (R67). -/
def dvGet (dv : List Byte) (d : Nat) : Dibit := ((dv.getD (d / 4) 0 >>> fieldShift d) &&& 3).setWidth 2

/-- `DVPUT(dv, d, v)` (R68). -/
def dvPut (dv : List Byte) (d : Nat) (v : Byte) : List Byte :=
  dv.set (d / 4) ((dv.getD (d / 4) 0 &&& ~~~((3 : Byte) <<< fieldShift d)) ||| ((v &&& 3) <<< fieldShift d))

/-- `DVLEN` bytes from the `DATASOURCE` port in step `k` (R13, R201); a byte that nothing drives is free (log 13). -/
def readDatasource (k dvlen : Nat) (ds : List Byte) : List Byte :=
  (List.range dvlen).map fun j => ds.getD j (Config.undrivenByte k j)

section
variable {R : Type}

/-- `B` samples from the `RXIN` port in step `k` (R223); a sample that nothing drives is `free k j` (log 13). -/
def readRxin (free : Nat → Nat → R) (k b : Nat) (rxin : List R) : List R :=
  (List.range b).map fun j => rxin.getD j (free k j)

variable [Zero R]

/-- `B` samples of value 0, the silence of a starved tick (R223, R242). -/
def silence (b : Nat) : List R := List.replicate b 0

/-- A vector of length `n`: the external transforms are functions from length-`N` vectors to length-`N` vectors (R9). -/
def fit (n : Nat) (l : List (Cpx R)) : List (Cpx R) := (List.range n).map fun i => l.getD i Cpx.zero

/-- `IFFT_EXT(X)` (R9, R149). -/
def inverse (E : Build R) (X : List (Cpx R)) : List (Cpx R) := fit E.cfg.n (E.xf.ifft X)

/-- `FFT_EXT(x)` (R9, R161). -/
def forward (E : Build R) (x : List (Cpx R)) : List (Cpx R) := fit E.cfg.n (E.xf.fft x)

end

end Machine

end Sys2Proof
end

