-- ==== Sys2Proof/Machine/Inst.lean ====
section
/-! DEFINITION. The state `S` of one instance (R20), the symbol-buffer memories in canonical form (log 17), the response
of a command (R95, R240), and a pending command with its inputs (R14). -/

namespace Sys2Proof.Machine

/-- A symbol-buffer space (`TXBUF`, `RXBUF`, R60): index and element, indices rising, no element `(0, 0)`; an index that
is not listed reads `(0, 0)`, the reset value (R25, R30). -/
abbrev Mem (R : Type) := List (Nat × Cpx R)

/-- The state of one instance (R20). -/
structure Inst (R : Type) where
  /-- `active` (R21). -/
  active : Bool
  /-- `tx_code[0..D-1]` (R22). -/
  txCode : List PhaseCode
  /-- `tx_seg` (R23). -/
  txSeg : Nat
  /-- `tx_dv[0..DVLEN-1]` (R24). -/
  txDv : List Byte
  /-- `tx_dv_valid` (R24). -/
  txDvValid : Bool
  /-- `tx_buf[0..N-1]` (R25). -/
  txBuf : Mem R
  /-- `tx_symcnt` (R26). -/
  txSymCnt : Nat
  /-- `rx_phase[0..D-1]` (R27). -/
  rxPhase : List R
  /-- `rx_first_done` (R28). -/
  rxFirstDone : Bool
  /-- `rx_idx` (R29). -/
  rxIdx : Nat
  /-- `rx_buf[0..N-1]` (R30). -/
  rxBuf : Mem R
  /-- `plt_avg[0..P-1]` (R31). -/
  pltAvg : List R
  /-- `rx_symcnt` (R32). -/
  rxSymCnt : Nat
deriving DecidableEq, Repr

/-- The response codes of R240. Codes 6 to 15 are never returned. -/
inductive Rc where
  | ok
  /-- `Inactive`, and `InvalidConfiguration` for `RST`. -/
  | inactive
  | txNoBuffer
  | starvedInput
  | badCommand
  | badArgument
deriving DecidableEq, Repr

/-- The response and the events of one command (R14, R95). -/
structure ResponseOf (R : Type) [Zero R] where
  /-- The response code. -/
  rc : Rc
  /-- The 32-bit response data of `RDSTS`, `RDTXC`, `RDRXC`; 0 for the others (R95). -/
  word : DataWord := 0
  /-- The response data of `RDPLT`, a value of `R`; 0 for the others (R95). -/
  value : R := 0
  /-- The `TXOUT` block, if one was emitted. -/
  txout : Option (List R) := none
  /-- The Data Vectors given to `LISTENER`, in order. -/
  listener : List (List Byte) := []
  /-- `DATASOURCE()` was called: the Data Vector on its port was consumed (R71). -/
  dsUsed : Bool := false
deriving DecidableEq, Repr

/-- One command step as it arrives at the port: the word and what it may consume (R14). -/
structure CommandOf (R : Type) where
  /-- The 16-bit command word (R90). -/
  word : CmdWord
  /-- The block on `RXIN`, present when the command is `RXTICK V=1`. -/
  rxin : List R
  /-- The bytes on `DATASOURCE`. -/
  ds : List Byte
deriving DecidableEq, Repr

/-- The response of a command of the machine. -/
abbrev Response := ResponseOf Rat

/-- A command step of the machine. -/
abbrev Command := CommandOf Rat

end Sys2Proof.Machine
end

