-- ==== Sys2Proof/Machine/Reset.lean ====
section
/-! DEFINITION. `RESET(CFG)` (R271): the one operation behind power-on reset and the command `RST` (R270). -/

namespace Sys2Proof.Machine

section
variable {R : Type} [Zero R]

/-- `RESET(CFG)` (R39, R271). The two elements the spec leaves unspecified take what the arguments say: at power-on
the value log 9 names, at `RST` free values (log 10). -/
def resetInst (c : Cfg) (unspecDv : Nat → Byte) (unspecPhase : Nat → R) : Inst R :=
  let L := layout c
  { active := c.valid
    txCode := (List.range L.d).map fun d => c.txSeed.getD d 0
    txSeg := 0
    txDv := (List.range L.dvlen).map unspecDv
    txDvValid := false
    txBuf := []
    txSymCnt := 0
    rxPhase := (List.range L.d).map unspecPhase
    rxFirstDone := false
    rxIdx := 0
    rxBuf := []
    pltAvg := List.replicate L.p 0
    rxSymCnt := 0 }

/-- The instance after power-on reset: the unspecified elements hold 0 (DESIGN CHOICE, log 9). -/
def powerOnInst (c : Cfg) : Inst R := resetInst c (fun _ => 0) (fun _ => 0)

/-- The instance after the command `RST`: the unspecified elements hold free values (log 10). -/
def rstInst (X : Env R) (c : Cfg) : Inst R := resetInst c Config.unspecByte X.unspecPhase

end

end Sys2Proof.Machine
end

