-- ==== Sys2Proof/Machine/State.lean ====
section
/-! DEFINITION. The state of the machine: the configuration, the instance's state `S` (R20) and the ports; the faults and
refusals; the state after power-on reset (R39, R270). -/

namespace Sys2Proof.Machine

/-- There is none: "A run cannot hang or get stuck: every command word has a defined result" (R17). Log 18. -/
inductive Fault
deriving DecidableEq, Repr

/-- What the model has no meaning for. -/
inductive Refusal where
  /-- Raised by `exec` for an instruction without a meaning; no arm raises it now. Safe. -/
  | notModelled (mnemonic : String)
deriving DecidableEq, Repr

/-- The block, with values of `R` in its arithmetic elements: the machine at `R = Rat`, the reference semantics of R8 at
`R = ℝ`. -/
structure Sys (R : Type) [Zero R] where
  /-- `CFG` (R6): fixed at construction; no step changes it (log 1). -/
  cfg : Cfg
  /-- The state `S` of the instance (R20). -/
  inst : Inst R
  /-- The command steps that wait at the command port, oldest first (R14, R17, log 11). -/
  port : List (CommandOf R)
  /-- The `RXIN` port during a command (R60, log 13). -/
  rxin : List R
  /-- The `DATASOURCE` port during a command (R229, log 13). -/
  ds : List Byte
  /-- The response of the last command (R95, log 12). -/
  out : Option (ResponseOf R)
  /-- The model's own counter of commands run: it indexes the free values of undriven ports (log 13). -/
  stepNo : Nat
deriving DecidableEq, Repr

/-- The machine: the block over exact rationals, as plain data (log 3). -/
structure State extends Sys Rat
deriving DecidableEq, Repr

/-- Power-on reset of an instance built with `c` (R270, R271). -/
def Sys.powerOn {R : Type} [Zero R] (c : Cfg) : Sys R where
  cfg := c
  inst := powerOnInst c
  port := []
  rxin := []
  ds := []
  out := none
  stepNo := 0

/-- Power-on reset of the machine. -/
def State.powerOn (c : Cfg) : State := { toSys := Sys.powerOn c }

/-- The machine right after reset, with the configuration of log 2. -/
def State.reset : State := State.powerOn defaultCfg

end Sys2Proof.Machine
end

