-- ==== Sys2Proof/Machine/Ops.lean ====
section
/-! DEFINITION. The shared operations: reading and writing a symbol-buffer space (R13, R60), fetching a command from the
port (R14), completing a command and ending one with a condition (R240, R248, R249). -/

namespace Sys2Proof.Machine

section
variable {R : Type} [Zero R] [LinearOrder R]

/-- The canonical form of a symbol-buffer space. -/
abbrev Mem.wf (m : Mem R) : Prop := m.Pairwise (fun a b => a.1 < b.1) ∧ ∀ e ∈ m, e.2 ≠ Cpx.zero

/-- `MemRead(space, addr)` (R13). -/
def Mem.read : Mem R → Nat → Cpx R
  | [], _ => Cpx.zero
  | (k, v) :: t, a => if k = a then v else Mem.read t a

/-- An entry put in front of a space, unless it says what an unlisted index says anyway. -/
def Mem.cons (a : Nat) (v : Cpx R) (m : Mem R) : Mem R := if v = Cpx.zero then m else (a, v) :: m

/-- `MemWrite(space, addr, v)` (R13). -/
def Mem.write : Mem R → Nat → Cpx R → Mem R
  | [], a, v => Mem.cons a v []
  | (k, w) :: t, a, v =>
    if a < k then Mem.cons a v ((k, w) :: t)
    else if a = k then Mem.cons a v t
    else (k, w) :: Mem.write t a v

/-- The elements `l` written at `i`, `i+1`, … of a space that holds nothing else. -/
def Mem.ofListFrom : Nat → List (Cpx R) → Mem R
  | _, [] => []
  | i, v :: t => Mem.cons i v (Mem.ofListFrom (i + 1) t)

/-- A whole space overwritten with the elements of a list (R149, R161). -/
def Mem.ofList (l : List (Cpx R)) : Mem R := Mem.ofListFrom 0 l

/-- The first `n` elements of a space, as the transforms take them (R66). -/
def Mem.toVec (m : Mem R) (n : Nat) : List (Cpx R) := (List.range n).map (Mem.read m)

end

/-- The 4-bit response code (R240). -/
def Rc.code : Rc → BitVec 4
  | .ok => 0
  | .inactive => 1
  | .txNoBuffer => 2
  | .starvedInput => 3
  | .badCommand => 4
  | .badArgument => 5

section
variable {R : Type} [Zero R]

/-- The oldest pending command put on the ports: the state in which it runs (R14, R80). -/
def Sys.accept (s : Sys R) (c : CommandOf R) (rest : List (CommandOf R)) : Sys R :=
  { s with port := rest, rxin := c.rxin, ds := c.ds }

/-- The next command word and the state in which it runs; none while no command is pending (R256). -/
def fetch (s : Sys R) : Option (CmdWord × Sys R) :=
  match s.port with
  | [] => none
  | c :: rest => some (c.word, s.accept c rest)

/-- The end of a command: the instance's new state and the response. The input ports hold nothing afterwards: a block
belongs to the block only for the duration of its command (R85, R279). -/
def Sys.finish (s : Sys R) (S : Inst R) (r : ResponseOf R) : Sys R :=
  { s with inst := S, rxin := [], ds := [], out := some r, stepNo := s.stepNo + 1 }

/-- `raise <Condition>` (R13, R248): the command ends with the condition's response code, response data 0, no event and
no change of the instance's state. Nothing is saved and nothing is returned to (R249): the next command is simply the
next one of the port. -/
def raise (rc : Rc) (s : Sys R) : Sys R := s.finish s.inst { rc := rc }

/-- What a word that stands for no command does (R94, R230). -/
def badCommand (s : Sys R) : Sys R := raise .badCommand s

end

end Sys2Proof.Machine
end

