-- ==== Sys2Proof/Machine/Flags.lean ====
section
/-! DEFINITION. The mode flags as the host sees them: the transmit scheduler's state (R190) and the status word (R98).
The block has no arithmetic condition codes (R35). -/

namespace Sys2Proof.Machine

/-- The states of the transmit scheduler (R190, R251). -/
inductive TxState where
  | fadeIn
  | body
  | fadeOut
deriving DecidableEq, Repr

/-- The state of the next transmit tick, a function of `tx_seg` (R190). -/
def txStateOf (k seg : Nat) : TxState :=
  if seg = 0 then .fadeIn else if seg = k - 1 then .fadeOut else .body

/-- The field `TX_STATE` of the status word (R98). -/
def TxState.code : TxState → BitVec 2
  | .fadeIn => 0
  | .body => 1
  | .fadeOut => 2

section
variable {R : Type}

/-- The status word `zext_32({ts[1:0], tx_dv_valid, rx_first_done, active})` (R98, R224). -/
def statusWord (c : Cfg) (S : Inst R) : DataWord :=
  ((txStateOf c.k S.txSeg).code ++ BitVec.ofBool S.txDvValid ++ BitVec.ofBool S.rxFirstDone
    ++ BitVec.ofBool S.active).setWidth 32

end

/-- `zext_32` of a symbol counter (R103); a value that does not fit 32 bits reads as a free value (log 15). -/
def counterWord (n : Nat) : DataWord := if n < 2 ^ 32 then BitVec.ofNat 32 n else Config.wideCounter n

/-- A symbol counter plus 1, modulo `2^CNT_W` (R26, R32, R252). -/
def bumpCounter (c : Cfg) (n : Nat) : Nat := (n + 1) % 2 ^ c.cntW

end Sys2Proof.Machine
end

