-- ==== Sys2Proof/Machine/Pilot.lean ====
section
/-! DEFINITION. The pilot-tone phase tracker `PLT.UPD` (R180 to R185). -/

namespace Sys2Proof.Machine

section
variable {R : Type} [Zero R] [Add R] [Sub R] [Neg R] [Mul R] [LinearOrder R]

/-- The phase difference of one pilot pair, `NORM(a2 - a1)` (R180, R181). -/
def pilotDiff (m : Num R) (y1 y2 : Cpx R) : R := normAngle m (angle m y2 - angle m y1)

/-- One smoothing step, `avg + ALPHA*(pd - avg)` (R181). -/
def smooth (m : Num R) (avg pd : R) : R := avg + m.alpha * (pd - avg)

/-- `PLT.UPD(ypil1, ypil2)` (R181). -/
def pltUpd (m : Num R) (y1 y2 : List (Cpx R)) (avg : List R) : List R :=
  avg.mapIdx fun p v => smooth m v (pilotDiff m (y1.getD p Cpx.zero) (y2.getD p Cpx.zero))

end

end Sys2Proof.Machine
end

