-- ==== Sys2Proof/Machine/Decoder.lean ====
section
/-! DEFINITION. The demultiplexer `DEMUX` (R125) and the decoder `DEC.SYM` (R160 to R174). -/

namespace Sys2Proof.Machine

/-- What `DEMUX` returns (R125). -/
structure Demuxed (R : Type) where
  ydata : List (Cpx R)
  ypil1 : List (Cpx R)
  ypil2 : List (Cpx R)
deriving DecidableEq, Repr

section
variable {R : Type} [Zero R] [Add R] [Sub R] [Neg R] [Mul R] [LinearOrder R]

/-- `DEMUX(Y)` (R125). -/
def demux (c : Cfg) (Y : List (Cpx R)) : Demuxed R :=
  let L := layout c
  { ydata := L.dataBin.map fun i => Y.getD i Cpx.zero
    ypil1 := L.pilot1.map fun i => Y.getD i Cpx.zero
    ypil2 := L.pilot2.map fun i => Y.getD i Cpx.zero }

/-- The angles of the data bins (R162). -/
def dataAngles (m : Num R) (y : Demuxed R) : List R := y.ydata.map (angle m)

/-- The Data Vector of one symbol: every channel's sector packed into an all-zero vector (R164, R165, R167). -/
def decodeFields (m : Num R) (L : Layout) (angles stored : List R) : List Byte :=
  (List.range L.d).foldl
    (fun dv d => dvPut dv d ((sector m (phaseDiff m (angles.getD d 0) (stored.getD d 0))).setWidth 8))
    (List.replicate L.dvlen 0)

/-- The received spectrum (R161). -/
def rxSpectrum (E : Build R) (S : Inst R) : List (Cpx R) := forward E (Mem.toVec S.rxBuf E.cfg.n)

/-- The Data Vector `DEC.SYM` builds from the present buffer and the stored angles (R164 to R167). -/
def decodedDv (E : Build R) (S : Inst R) : List Byte :=
  decodeFields E.num (layout E.cfg) (dataAngles E.num (demux E.cfg (rxSpectrum E S))) S.rxPhase

/-- The state after `DEC.SYM` (R169). -/
def decSym (E : Build R) (S : Inst R) : Inst R :=
  let Y := rxSpectrum E S
  let y := demux E.cfg Y
  { S with
    rxBuf := Mem.ofList Y
    rxPhase := dataAngles E.num y
    pltAvg := pltUpd E.num y.ypil1 y.ypil2 S.pltAvg
    rxSymCnt := bumpCounter E.cfg S.rxSymCnt
    rxFirstDone := true }

/-- The `LISTENER` events of `DEC.SYM`: none on the bootstrap symbol, one on every other (R163, R168, R169). -/
def decEvents (E : Build R) (S : Inst R) : List (List Byte) :=
  if S.rxFirstDone then [decodedDv E S] else []

end

end Sys2Proof.Machine
end

