-- ==== Sys2Proof/Machine/Encoder.lean ====
section
/-! DEFINITION. The multiplexer `MUX` (R126) and the encoder `ENC.SYM` (R140 to R153). -/

namespace Sys2Proof.Machine

section
variable {R : Type} [Zero R] [One R] [Neg R] [LinearOrder R]

/-- A value in its bin and its conjugate in the mirror bin `N - i` (R126). -/
def putBin (n : Nat) (X : List (Cpx R)) (i : Nat) (v : Cpx R) : List (Cpx R) :=
  (X.set i v).set (n - i) v.conj

/-- `MUX(xdata, xpil)` (R126). -/
def mux (c : Cfg) (xdata : List (Cpx R)) (xpil : Cpx R) : List (Cpx R) :=
  let L := layout c
  let X := List.replicate c.n Cpx.zero
  let X := (List.range L.d).foldl (fun X d => putBin c.n X (L.dataBin.getD d 0) (xdata.getD d Cpx.zero)) X
  (List.range L.p).foldl
    (fun X p => putBin c.n (putBin c.n X (L.pilot1.getD p 0) xpil) (L.pilot2.getD p 0) xpil) X

/-- The new phase code `(c + 2*GRAY[b] + OFFSET) mod 8` (R143). -/
def newCode (offset : Int) (c : PhaseCode) (b : Dibit) : PhaseCode :=
  BitVec.ofInt 3 (((c.toNat + 2 * (gray b).toNat : Nat) : Int) + offset)

/-- Every channel's phase code advanced by its field of the Data Vector (R141 to R145). -/
def advanceCodes (offset : Int) (dv : List Byte) (codes : List PhaseCode) : List PhaseCode :=
  codes.mapIdx fun d c => newCode offset c (dvGet dv d)

/-- The transmit spectrum of phase codes: the points of R146, the pilots of R147, `MUX` (R148). -/
def txSpectrum (E : Build R) (codes : List PhaseCode) : List (Cpx R) :=
  mux E.cfg (codes.map (point E.num)) (pilotPoint E.num)

/-- The codes `ENC.SYM` sends: advanced by the prefetched Data Vector, or as they are on the reference pass (R150,
R151). -/
def sentCodes (E : Build R) (S : Inst R) : List PhaseCode :=
  if S.txDvValid then advanceCodes E.cfg.offset S.txDv S.txCode else S.txCode

/-- `ENC.SYM` (R150). -/
def encSym (E : Build R) (S : Inst R) : Inst R :=
  { S with
    txCode := sentCodes E S
    txBuf := Mem.ofList (inverse E (txSpectrum E (sentCodes E S)))
    txDvValid := false
    txSymCnt := bumpCounter E.cfg S.txSymCnt }

end

end Sys2Proof.Machine
end

