-- ==== Sys2Proof/Machine/Scheduler.lean ====
section
/-! DEFINITION. The symbol scheduler: `TX.STEP` (R190 to R196) and `RX.PUSH` (R197, R198). -/

namespace Sys2Proof.Machine

section
variable {R : Type} [Zero R] [One R] [Add R] [Sub R] [Neg R] [Mul R] [LinearOrder R]

/-- The state from which the block of a transmit tick is taken: after `ENC.SYM` at `FADE_IN` (R191, R192). -/
def txEncoded (E : Build R) (S : Inst R) : Inst R := if S.txSeg = 0 then encSym E S else S

/-- This transmit tick is a `FADE_OUT` tick: it calls `DATASOURCE()` (R191, R194). -/
def txFetches (E : Build R) (S : Inst R) : Bool := decide (S.txSeg = E.cfg.k - 1)

/-- Sample `j` of the block of segment `s`: the real part of the stored sample, times the window in the first and the
last segment (R191 to R194). -/
def txSample (E : Build R) (buf : Mem R) (s j : Nat) : R :=
  let v := (Mem.read buf (s * E.cfg.b + j)).re
  if s = 0 then v * E.num.window E.cfg.b j
  else if s = E.cfg.k - 1 then v * E.num.window E.cfg.b (E.cfg.b - j)
  else v

/-- The `TXOUT` block of a transmit tick (R191). -/
def txBlock (E : Build R) (S : Inst R) : List R :=
  (List.range E.cfg.b).map (txSample E (txEncoded E S).txBuf S.txSeg)

/-- The state after `TX.STEP`; `dv` is what `DATASOURCE()` answers (R191). -/
def txStep (E : Build R) (dv : List Byte) (S : Inst R) : Inst R :=
  let S1 := txEncoded E S
  { S1 with
    txDv := if txFetches E S then dv else S1.txDv
    txDvValid := if txFetches E S then true else S1.txDvValid
    txSeg := (S.txSeg + 1) % E.cfg.k }

/-- The state after one sample went into the receive buffer, before the test for a full buffer (R62, R197). -/
def storeSample (S : Inst R) (x : R) : Inst R :=
  { S with rxBuf := Mem.write S.rxBuf S.rxIdx (Cpx.ofReal x), rxIdx := S.rxIdx + 1 }

/-- One turn of the loop of `RX.PUSH`: store a sample, and when the buffer is full run the decoder and start over
(R197, R198). The events so far are carried along. -/
def pushSample (E : Build R) (acc : Inst R × List (List Byte)) (x : R) : Inst R × List (List Byte) :=
  let S := storeSample acc.1 x
  if S.rxIdx = E.cfg.n then ({ decSym E S with rxIdx := 0 }, acc.2 ++ decEvents E S) else (S, acc.2)

/-- `RX.PUSH(blk)` (R197): the state after it and the `LISTENER` events. -/
def rxPush (E : Build R) (blk : List R) (S : Inst R) : Inst R × List (List Byte) :=
  blk.foldl (pushSample E) (S, [])

end

end Sys2Proof.Machine
end

