-- ==== Sys2Proof/Machine/Control.lean ====
section
/-! DEFINITION. The commands `NOP` (R220), `RST` (R221) and a reserved word (R94, R230): what each does to the block over any
`R`, and its meaning on the machine. -/

namespace Sys2Proof.Machine

/-- What a meaning answers. -/
abbrev Result := Host.Outcome State Fault Refusal

section
variable {R : Type} [Zero R]

/-- `NOP` (R220). -/
def Sys.nop (s : Sys R) : Sys R := s.finish s.inst { rc := .ok }

/-- `RST` (R221): the response code is 0, or 1 when the configuration is invalid. -/
def Sys.rst (X : Env R) (s : Sys R) : Sys R :=
  s.finish (rstInst X s.cfg) { rc := if (rstInst X s.cfg).active then .ok else .inactive }

/-- A word of the reserved range: `BadCommand`, whatever its other bits are (R94, R230). -/
def Sys.reserved (_x : Nat) (s : Sys R) : Sys R := badCommand s

end

/-- `NOP` on the machine. -/
def execNop (s : State) : Result := .next { toSys := s.toSys.nop }

/-- `RST` on the machine. -/
def execRst (s : State) : Result := .next { toSys := s.toSys.rst machineEnv }

/-- A reserved word on the machine. -/
def execReserved (x : Nat) (s : State) : Result := .next { toSys := s.toSys.reserved x }

end Sys2Proof.Machine
end

