-- ==== Sys2Proof/Machine/Reads.lean ====
section
/-! DEFINITION. The read commands `RDSTS` (R224), `RDTXC` (R225), `RDRXC` (R226), `RDPLT` (R227): what each does to the block
over any `R`, and its meaning on the machine. -/

namespace Sys2Proof.Machine

section
variable {R : Type} [Zero R]

/-- A read command's end: response code 0 and a data word; the instance is unchanged (R36, R255). -/
def answerWord (w : DataWord) (s : Sys R) : Sys R := s.finish s.inst { rc := .ok, word := w }

/-- `RDSTS` (R224). -/
def Sys.rdsts (s : Sys R) : Sys R := answerWord (statusWord s.cfg s.inst) s

/-- `RDTXC` (R225). -/
def Sys.rdtxc (s : Sys R) : Sys R := answerWord (counterWord s.inst.txSymCnt) s

/-- `RDRXC` (R226). -/
def Sys.rdrxc (s : Sys R) : Sys R := answerWord (counterWord s.inst.rxSymCnt) s

/-- `RDPLT p` (R227); `P` is 0 for an instance whose configuration is invalid. -/
def Sys.rdplt (p : Nat) (s : Sys R) : Sys R :=
  if (layout s.cfg).p ≤ p then raise .badArgument s
  else s.finish s.inst { rc := .ok, value := s.inst.pltAvg.getD p 0 }

end

/-- `RDSTS` on the machine. -/
def execRdsts (s : State) : Result := .next { toSys := s.toSys.rdsts }

/-- `RDTXC` on the machine. -/
def execRdtxc (s : State) : Result := .next { toSys := s.toSys.rdtxc }

/-- `RDRXC` on the machine. -/
def execRdrxc (s : State) : Result := .next { toSys := s.toSys.rdrxc }

/-- `RDPLT p` on the machine. -/
def execRdplt (p : Nat) (s : State) : Result := .next { toSys := s.toSys.rdplt p }

end Sys2Proof.Machine
end

