-- ==== Sys2Proof/Machine/Ticks.lean ====
section
/-! DEFINITION. `TXTICK` (R222) and `RXTICK` (R223): what each does to the block over any `R`, and its meaning on the
machine. -/

namespace Sys2Proof.Machine

section
variable {R : Type} [Zero R] [One R] [Add R] [Sub R] [Neg R] [Mul R] [LinearOrder R]

/-- A transmit tick that is not skipped: `TX.STEP` and its events (R191, R222). -/
def runTxStep (X : Env R) (s : Sys R) : Sys R :=
  let E := X.build s.cfg
  let dv := readDatasource s.stepNo (layout s.cfg).dvlen s.ds
  s.finish (txStep E dv s.inst) { rc := .ok, txout := some (txBlock E s.inst), dsUsed := txFetches E s.inst }

/-- `TXTICK A=a` (R222). -/
def Sys.txtick (X : Env R) (a : Bool) (s : Sys R) : Sys R :=
  if s.inst.active = false then raise .inactive s
  else if a = false then raise .txNoBuffer s
  else runTxStep X s

/-- The block a receive tick pushes: the one on `RXIN`, or silence (R223, R242). -/
def rxBlock (X : Env R) (v : Bool) (s : Sys R) : List R :=
  if v then readRxin X.undrivenSample s.stepNo s.cfg.b s.rxin else silence s.cfg.b

/-- A receive tick that is not skipped: `RX.PUSH` and its events (R197, R223). -/
def runRxPush (X : Env R) (v : Bool) (s : Sys R) : Sys R :=
  let r := rxPush (X.build s.cfg) (rxBlock X v s) s.inst
  s.finish r.1 { rc := if v then .ok else .starvedInput, listener := r.2 }

/-- `RXTICK V=v` (R223). -/
def Sys.rxtick (X : Env R) (v : Bool) (s : Sys R) : Sys R :=
  if s.inst.active = false then raise .inactive s else runRxPush X v s

end

/-- `TXTICK A=a` on the machine. -/
def execTxtick (a : Bool) (s : State) : Result := .next { toSys := s.toSys.txtick machineEnv a }

/-- `RXTICK V=v` on the machine. -/
def execRxtick (v : Bool) (s : State) : Result := .next { toSys := s.toSys.rxtick machineEnv v }

end Sys2Proof.Machine
end

