-- ==== Sys2Proof/Machine/Dispatch.lean ====
section
/-! DEFINITION. One arm for each command, each a direct call of its meaning. -/

namespace Sys2Proof.Machine

def exec (i : Instr) (s : State) : Host.Outcome State Fault Refusal :=
  match i with
  | .nop => Sys2Proof.Machine.execNop s
  | .rst => Sys2Proof.Machine.execRst s
  | .txtick a => Sys2Proof.Machine.execTxtick a s
  | .rxtick v => Sys2Proof.Machine.execRxtick v s
  | .rdsts => Sys2Proof.Machine.execRdsts s
  | .rdtxc => Sys2Proof.Machine.execRdtxc s
  | .rdrxc => Sys2Proof.Machine.execRdrxc s
  | .rdplt p => Sys2Proof.Machine.execRdplt p s
  | .reserved x => Sys2Proof.Machine.execReserved x s

end Sys2Proof.Machine
end

