-- ==== Sys2Proof/Machine/Step.lean ====
section
/-! DEFINITION. One step of the machine: the oldest pending command runs to completion (R14, R80). -/

namespace Sys2Proof.Machine

/-- A command step. With no command pending the block holds its state (R256); a word that stands for no command is
`BadCommand` (R94). -/
def step (s : State) : Host.Outcome State Fault Refusal :=
  match fetch s.toSys with
  | none => .next s
  | some (w, s1) =>
    match decode w with
    | .ok i => exec i { toSys := s1 }
    | .error _ => .next { toSys := badCommand s1 }

/-- `s` with the command word `w` (numbered as spec/opcode_table.json numbers it) as the next one of the command port:
the oldest pending command's word is replaced, or the word becomes the only pending command (log 11). -/
def State.withFetchWord (s : State) (_nbits w : Nat) : State :=
  match s.port with
  | [] => { s with port := [{ word := BitVec.ofNat 16 w, rxin := [], ds := [] }] }
  | c :: rest => { s with port := { c with word := BitVec.ofNat 16 w } :: rest }

end Sys2Proof.Machine
end

