-- ==== Sys2Proof/Machine/Generic.lean ====
section
/-! DEFINITION. The block over any numerics: `step(CFG, S, cmd, in)` of R14 with `NUM` and `XF` as parameters (R8, R9). The
machine's step is this one at `machineEnv`; Machine/Reference.lean and Machine/Rounded.lean are its other instances. -/

namespace Sys2Proof.Machine

section
variable {R : Type} [Zero R] [One R] [Add R] [Sub R] [Neg R] [Mul R] [LinearOrder R]

/-- One command of the block. -/
def Sys.exec (X : Env R) (i : Instr) (s : Sys R) : Sys R :=
  match i with
  | .nop => s.nop
  | .rst => s.rst X
  | .txtick a => s.txtick X a
  | .rxtick v => s.rxtick X v
  | .rdsts => s.rdsts
  | .rdtxc => s.rdtxc
  | .rdrxc => s.rdrxc
  | .rdplt p => s.rdplt p
  | .reserved x => s.reserved x

/-- One command step of the block (R14, R80); with no command pending the block holds its state (R256), and a word that
stands for no command is `BadCommand` (R94). -/
def Sys.step (X : Env R) (s : Sys R) : Sys R :=
  match fetch s with
  | none => s
  | some (w, s1) =>
    match decode w with
    | .ok i => s1.exec X i
    | .error _ => badCommand s1

end

end Sys2Proof.Machine
end

