-- ==== Sys2Proof/Machine/Reference.lean ====
section
/-! DEFINITION. The reference semantics of R8: the block over the exact real numbers, with `PI = π`, the true cosines, the
raised-cosine window of R195 and the principal angle. `refStep` is the whole command step there; a rule the spec states in
the reference semantics is stated about it or about its operations. The machine's `step` does not use this file. -/

namespace Sys2Proof

namespace Machine

/-- The reference numerics (R8, R97, R195): `PI = π`, `ALPHA = 0.02`, `COS8[c] = cos(c·π/4)`,
`W[j] = (1 - cos(π·j/B))/2`, `ATAN2` the principal angle, `z` the open value `ATAN2_00` (U3). -/
noncomputable def refNum (z : ℝ) : Num ℝ where
  halfPi := Real.pi / 2
  alpha := 0.02
  cos45 := Real.cos (Real.pi / 4)
  window := fun b j => (1 - Real.cos (Real.pi * j / b)) / 2
  atan2 := fun y x => if x = 0 ∧ y = 0 then z else Complex.arg ⟨x, y⟩

/-- The reference environment; the transform pair, `ATAN2_00` and the unspecified values stay parameters. -/
noncomputable def refEnv (z : ℝ) (x : Xf ℝ) (phase : Nat → ℝ) (sample : Nat → Nat → ℝ) : Env ℝ where
  num := fun _ => refNum z
  xf := x
  unspecPhase := phase
  undrivenSample := sample

/-- One command step of the block in the reference semantics. -/
noncomputable def refStep (z : ℝ) (x : Xf ℝ) (phase : Nat → ℝ) (sample : Nat → Nat → ℝ) (s : Sys ℝ) : Sys ℝ :=
  s.step (refEnv z x phase sample)

end Machine

end Sys2Proof
end

