-- ==== Sys2Proof/Safety.lean ====
section
/-! DEFINITION. What claims about runs rest on: the invariant of R38 (with the ranges and lengths the state's own rules
give), and the premises the spec names for claims about the transform pair (R9, R173). -/

namespace Sys2Proof.Machine

section
variable {R : Type} [Zero R]

/-- The lengths and widths of the elements of `S` (R20 to R32, R39): they never change. -/
structure Inst.Shape [LinearOrder R] (c : Cfg) (S : Inst R) : Prop where
  txCode_length : S.txCode.length = (layout c).d
  txDv_length : S.txDv.length = (layout c).dvlen
  rxPhase_length : S.rxPhase.length = (layout c).d
  pltAvg_length : S.pltAvg.length = (layout c).p
  txSymCnt_lt : S.txSymCnt < 2 ^ c.cntW
  rxSymCnt_lt : S.rxSymCnt < 2 ^ c.cntW
  txBuf_wf : Mem.wf S.txBuf
  rxBuf_wf : Mem.wf S.rxBuf
  txBuf_lt : ∀ e ∈ S.txBuf, e.1 < c.n
  rxBuf_lt : ∀ e ∈ S.rxBuf, e.1 < c.n

/-- The transmit half as reset leaves it, apart from the unspecified `tx_dv` (R39). -/
structure Inst.TxAtReset (c : Cfg) (S : Inst R) : Prop where
  txCode_eq : S.txCode = (List.range (layout c).d).map fun d => c.txSeed.getD d 0
  txBuf_eq : S.txBuf = []
  txSymCnt_eq : S.txSymCnt = 0

/-- The receive half before its first symbol, apart from the unspecified `rx_phase` and the samples collected so far
(R27, R28, R31, R32). -/
structure Inst.RxAtBootstrap (c : Cfg) (S : Inst R) : Prop where
  pltAvg_eq : S.pltAvg = List.replicate (layout c).p 0
  rxSymCnt_eq : S.rxSymCnt = 0

/-- The invariant between commands of the block over any `R` with the numerics `m`. Every clause but the lengths is a
sentence of R38, or of the rule it names. -/
structure Sys.Invariant [Add R] [Neg R] [One R] [LinearOrder R] (m : Cfg → Num R) (s : Sys R) : Prop where
  shape : Inst.Shape s.cfg s.inst
  /-- R21: `active` says whether the configuration is valid. -/
  active_eq : s.inst.active = s.cfg.valid
  txSeg_lt : s.inst.active = true → s.inst.txSeg < s.cfg.k
  rxIdx_lt : s.inst.active = true → s.inst.rxIdx < s.cfg.n
  rxIdx_dvd : s.inst.active = true → s.cfg.b ∣ s.inst.rxIdx
  prefetched : s.inst.txDvValid = true → s.inst.txSeg = 0
  /-- R24: at a symbol start without a Data Vector no symbol has been sent since reset. -/
  firstSymbol : s.inst.active = true → s.inst.txSeg = 0 → s.inst.txDvValid = false → Inst.TxAtReset s.cfg s.inst
  /-- R28, R185: before the first decode neither the pilot averages nor the counter have moved. -/
  bootstrap : s.inst.rxFirstDone = false → Inst.RxAtBootstrap s.cfg s.inst
  inactive : s.inst.active = false → s.inst = powerOnInst s.cfg
  /-- R27: the stored angles are angles as `ATAN2` returned them. -/
  rxPhase_range : s.inst.rxFirstDone = true →
    ∀ a ∈ s.inst.rxPhase, -(m s.cfg).pi ≤ a ∧ a ≤ (m s.cfg).pi
  /-- R104, R181 (d), for a gain that makes a weighted mean of the two. -/
  pltAvg_range : 0 ≤ (m s.cfg).alpha → (m s.cfg).alpha < 1 →
    ∀ v ∈ s.inst.pltAvg, -(m s.cfg).pi < v ∧ v < (m s.cfg).pi

end

/-- What controls the block: everything but the values of `R` (the samples, the stored angles, the pilot averages) and the
bytes of a decoded Data Vector, of which the sizes are kept. -/
structure Control where
  cfg : Cfg
  active : Bool
  txCode : List PhaseCode
  txSeg : Nat
  txDv : List Byte
  txDvValid : Bool
  txSymCnt : Nat
  rxFirstDone : Bool
  rxIdx : Nat
  rxSymCnt : Nat
  port : List (CmdWord × List Byte)
  ds : List Byte
  /-- Response code, data word, size of the `TXOUT` block, sizes of the Data Vectors delivered, `DATASOURCE()` called. -/
  out : Option (Rc × DataWord × Option Nat × List Nat × Bool)
  stepNo : Nat
deriving DecidableEq, Repr

/-- What controls the block in a state of it. -/
def Sys.control {R : Type} [Zero R] (s : Sys R) : Control where
  cfg := s.cfg
  active := s.inst.active
  txCode := s.inst.txCode
  txSeg := s.inst.txSeg
  txDv := s.inst.txDv
  txDvValid := s.inst.txDvValid
  txSymCnt := s.inst.txSymCnt
  rxFirstDone := s.inst.rxFirstDone
  rxIdx := s.inst.rxIdx
  rxSymCnt := s.inst.rxSymCnt
  port := s.port.map fun c => (c.word, c.ds)
  ds := s.ds
  out := s.out.map fun r => (r.rc, r.word, r.txout.map List.length, r.listener.map List.length, r.dsUsed)
  stepNo := s.stepNo

/-- A point turned by the angle `φ` and scaled by `g` (R174 (b), (d)). -/
noncomputable def rotate (g φ : ℝ) (z : Cpx ℝ) : Cpx ℝ :=
  ⟨g * (Real.cos φ * z.re - Real.sin φ * z.im), g * (Real.sin φ * z.re + Real.cos φ * z.im)⟩

/-- The invariant of the machine. -/
abbrev Invariant (s : State) : Prop := Sys.Invariant num s.toSys

/-- The transmit half of the instance is the same in both (R20). -/
structure Inst.SameTx (S T : Inst Rat) : Prop where
  txCode_eq : T.txCode = S.txCode
  txSeg_eq : T.txSeg = S.txSeg
  txDv_eq : T.txDv = S.txDv
  txDvValid_eq : T.txDvValid = S.txDvValid
  txBuf_eq : T.txBuf = S.txBuf
  txSymCnt_eq : T.txSymCnt = S.txSymCnt

/-- The receive half of the instance is the same in both (R20). -/
structure Inst.SameRx (S T : Inst Rat) : Prop where
  rxPhase_eq : T.rxPhase = S.rxPhase
  rxFirstDone_eq : T.rxFirstDone = S.rxFirstDone
  rxIdx_eq : T.rxIdx = S.rxIdx
  rxBuf_eq : T.rxBuf = S.rxBuf
  pltAvg_eq : T.pltAvg = S.pltAvg
  rxSymCnt_eq : T.rxSymCnt = S.rxSymCnt

/-- What the frame of every command but `RST` says beside the instance: the configuration and the commands still
waiting are unchanged. -/
structure SameAround (s t : State) : Prop where
  cfg_eq : t.cfg = s.cfg
  port_eq : t.port = s.port

section
variable {R : Type} [Zero R] [One R] [Neg R] [Mul R] [LinearOrder R]

/-- The envelope of one symbol (R196): sample `n` of the symbol is multiplied by it. -/
def envelope (E : Build R) (n : Nat) : R :=
  if n < E.cfg.b then E.num.window E.cfg.b n
  else if n < E.cfg.n - E.cfg.b then 1
  else E.num.window E.cfg.b (E.cfg.n - n)

/-- A transmitted symbol as the receive buffer holds it when the encoder's output is fed straight to the decoder:
`(Re x[n], 0)` for every sample (R9, R172). -/
def ingest (E : Build R) (m : Mem R) : Mem R :=
  Mem.ofList ((Mem.toVec m E.cfg.n).map fun z => Cpx.ofReal z.re)

/-- The received spectrum of a transmitted spectrum when the encoder's output goes straight to the decoder: the inverse
transform's real parts, ingested as `(Re x[n], 0)`, through the forward transform (R9, R172). -/
def loopback (E : Build R) (X : List (Cpx R)) : List (Cpx R) :=
  forward E ((inverse E X).map fun z => Cpx.ofReal z.re)

/-- The loopback contract LC of R9: every spectrum of R148 comes back conjugated, up to a positive gain. -/
def LoopbackConj (E : Build R) : Prop :=
  ∀ codes : List PhaseCode, codes.length = (layout E.cfg).d →
    ∃ g : R, 0 < g ∧ ∀ i, isActive E.cfg i = true →
      (loopback E (txSpectrum E codes)).getD i Cpx.zero =
        ⟨g * ((txSpectrum E codes).getD i Cpx.zero).re, g * -((txSpectrum E codes).getD i Cpx.zero).im⟩

/-- A pair that does not conjugate: every spectrum of R148 comes back up to a positive gain (R173). -/
def LoopbackPlain (E : Build R) : Prop :=
  ∀ codes : List PhaseCode, codes.length = (layout E.cfg).d →
    ∃ g : R, 0 < g ∧ ∀ i, isActive E.cfg i = true →
      (loopback E (txSpectrum E codes)).getD i Cpx.zero =
        ⟨g * ((txSpectrum E codes).getD i Cpx.zero).re, g * ((txSpectrum E codes).getD i Cpx.zero).im⟩

end

end Sys2Proof.Machine
end

