-- ==== Sys2Proof/Certificates/Slice0/Obligations.lean ====
section
/-! DEFINITION. The statements for the provers. Each docstring names the rule of spec/ it formalises. Where a next state
is written as a record `{ s with … }`, every field not named is unchanged: the record is the command's whole frame. -/

open Sys2Proof Sys2Proof.Machine

/-! ## The machine as a whole -/

/-- R38, R39: reset, of this and of every other configuration, leaves a state that meets the invariant. -/
def Obligations.ResetMeetsInvariant : Prop :=
  Invariant State.reset ∧ ∀ c : Cfg, Invariant (State.powerOn c)

/-- R38: every step, from every state that meets the invariant, leaves one that meets it. -/
def Obligations.StepKeepsInvariant : Prop :=
  ∀ s t : State, Invariant s → step s = .next t → Invariant t

/-- R80, R94, R256: a step runs the decoded oldest pending command on that command's inputs; a word that decodes to no
command is `BadCommand`; with no command pending the state is held. -/
def Obligations.StepRunsDecodedCommand : Prop :=
  (∀ (s : State) (c : Command) (rest : List Command) (i : Instr), s.port = c :: rest → decode c.word = .ok i →
    step s = exec i { s with port := rest, rxin := c.rxin, ds := c.ds }) ∧
  (∀ (s : State) (c : Command) (rest : List Command) (e : Reject), s.port = c :: rest → decode c.word = .error e →
    step s = .next { s with port := rest, rxin := [], ds := [], out := some { rc := .badCommand },
                            stepNo := s.stepNo + 1 }) ∧
  (∀ s : State, s.port = [] → step s = .next s)

/-- R17: a run cannot hang or get stuck: every number of steps from every state is answered by a next state. -/
def Obligations.EveryRunCompletes : Prop :=
  ∀ (k : Nat) (s : State), ∃ t : State, Sys2Proof.core.run k s = .next t

/-- R34: no step changes the configuration. -/
def Obligations.ConfigurationNeverChanges : Prop :=
  ∀ s t : State, step s = .next t → t.cfg = s.cfg

/-- R245: an instance that is inactive stays as it is for ever, and no command of a run makes it emit anything. -/
def Obligations.InactiveForEver : Prop :=
  ∀ (k : Nat) (s t : State), Invariant s → s.inst.active = false → Sys2Proof.core.run k s = .next t →
    t.inst = s.inst ∧
    ∀ u : State, step t = .next u → t.port ≠ [] → ∃ r : Response, u.out = some r ∧
      r.txout = none ∧ r.listener = [] ∧ r.dsUsed = false

/-! ## Encoding -/

/-- R101: the words of the table of encodings decode to the commands they stand for; `0x8000` is in the reserved
range. -/
def Obligations.TableWordsDecode : Prop :=
  decode 0x0000 = .ok .nop ∧ decode 0x1000 = .ok .rst ∧
  decode 0x2000 = .ok (.txtick false) ∧ decode 0x2001 = .ok (.txtick true) ∧
  decode 0x3000 = .ok (.rxtick false) ∧ decode 0x3001 = .ok (.rxtick true) ∧
  decode 0x4000 = .ok .rdsts ∧ decode 0x5000 = .ok .rdtxc ∧ decode 0x6000 = .ok .rdrxc ∧
  decode 0x7003 = .ok (.rdplt 3) ∧ decode 0x7FFF = .ok (.rdplt 4095) ∧ decode 0x8000 = .ok (.reserved 0)

/-- R90 to R94: decoding an encoded well-formed command gives it back. -/
def Obligations.DecodeOfEncode : Prop :=
  ∀ i : Instr, i.wf = true → decode (encode i) = .ok i

/-- R90 to R94: a word that decodes is the encoding of the well-formed command it decodes to. -/
def Obligations.EncodeOfDecode : Prop :=
  ∀ (w : CmdWord) (i : Instr), decode w = .ok i → i.wf = true ∧ encode i = w

/-- R93: the must-be-zero bits are `arg[11:0]` of op 0, 1, 4, 5, 6 and `arg[11:1]` of op 2, 3; the decoder rejects exactly
the words that set one of them. -/
def Obligations.RejectedWordsSetMustBeZeroBits : Prop :=
  ∀ w : CmdWord, (∃ e : Reject, decode w = .error e) ↔
    ((w.toNat / 4096 ∈ [0, 1, 4, 5, 6] ∧ w.toNat % 4096 ≠ 0) ∨
     (w.toNat / 4096 ∈ [2, 3] ∧ 2 ≤ w.toNat % 4096))

/-- R230 (and R93): a word that sets a must-be-zero bit, or whose operation code is 8 to 15, answers response code 4
with no state change and no event, whatever `active` is. -/
def Obligations.BadCommandChangesNothing : Prop :=
  Rc.badCommand.code = 4 ∧
  ∀ (s : State) (c : Command) (rest : List Command), s.port = c :: rest →
    ((c.word.toNat / 4096 ∈ [0, 1, 4, 5, 6] ∧ c.word.toNat % 4096 ≠ 0) ∨
     (c.word.toNat / 4096 ∈ [2, 3] ∧ 2 ≤ c.word.toNat % 4096) ∨ 8 ≤ c.word.toNat / 4096) →
    step s = .next { s with port := rest, rxin := [], ds := [], out := some { rc := .badCommand },
                            stepNo := s.stepNo + 1 }

/-! ## The commands -/

/-- R220: `NOP`, the word `0x0000`, answers response code 0 and does nothing else, in every state. -/
def Obligations.NopOnlyAnswers : Prop :=
  encode .nop = 0x0000 ∧ decode 0x0000 = .ok .nop ∧ Rc.ok.code = 0 ∧
  ∀ s : State, exec .nop s =
    .next { s with rxin := [], ds := [], out := some { rc := .ok }, stepNo := s.stepNo + 1 }

/-- R94, R230: a word of the reserved range answers `BadCommand` and does nothing else. -/
def Obligations.ReservedOnlyAnswersBadCommand : Prop :=
  ∀ (x : Nat) (s : State), exec (.reserved x) s =
    .next { s with rxin := [], ds := [], out := some { rc := .badCommand }, stepNo := s.stepNo + 1 }

/-- R221, R271: `RST` puts every element the spec gives a reset value at that value, leaves the two unspecified arrays
with some contents of the right length, and answers 0, or 1 when the configuration is invalid. The second part spells out
what makes a configuration valid: clauses (a) to (e) of R10, one a line. -/
def Obligations.RstPutsResetValues : Prop :=
  (∀ s : State, ∃ (dv : List Byte) (ph : List Rat),
    dv.length = (layout s.cfg).dvlen ∧ ph.length = (layout s.cfg).d ∧
    exec .rst s = .next
      { s with
        inst :=
          { active := s.cfg.valid
            txCode := (List.range (layout s.cfg).d).map fun d => s.cfg.txSeed.getD d 0
            txSeg := 0
            txDv := dv
            txDvValid := false
            txBuf := []
            txSymCnt := 0
            rxPhase := ph
            rxFirstDone := false
            rxIdx := 0
            rxBuf := []
            pltAvg := List.replicate (layout s.cfg).p 0
            rxSymCnt := 0 }
        rxin := []
        ds := []
        out := some { rc := if s.cfg.valid then .ok else .inactive }
        stepNo := s.stepNo + 1 }) ∧
  ∀ c : Cfg, c.valid = true ↔
    ((∃ e : Nat, c.n = 2 ^ e) ∧ c.n ∈ c.nSupported) ∧
    (1 ≤ c.b ∧ c.b ∣ c.n ∧ 2 ≤ c.n / c.b) ∧
    (1 ≤ c.channelMin ∧ 1 ≤ c.channels ∧ (c.channelMin : Int) + c.channels - 1 ≤ c.n / 2 - 1) ∧
    (1 ≤ c.chunkData ∧ c.channels % (c.chunkData + 2) = 0 ∧ c.pilotOfs ≤ c.chunkData) ∧
    c.channels / (c.chunkData + 2) ≤ 4096

/-- R221: `RST` twice is the same as once. -/
def Obligations.RstTwiceIsRstOnce : Prop :=
  ∀ s t u : State, exec .rst s = .next t → exec .rst t = .next u → u.inst = t.inst ∧ u.out = t.out

/-- R222, first two lines: a transmit tick on an inactive instance, and one without an output buffer, end with their
response code and change nothing. -/
def Obligations.SkippedTransmitTick : Prop :=
  Rc.inactive.code = 1 ∧ Rc.txNoBuffer.code = 2 ∧
  (∀ (a : Bool) (s : State), s.inst.active = false → exec (.txtick a) s =
    .next { s with rxin := [], ds := [], out := some { rc := .inactive }, stepNo := s.stepNo + 1 }) ∧
  (∀ s : State, s.inst.active = true → exec (.txtick false) s =
    .next { s with rxin := [], ds := [], out := some { rc := .txNoBuffer }, stepNo := s.stepNo + 1 })

/-- R192, R150: a `FADE_IN` tick runs the encoder, then emits the first block times the rising half of the window.
The values of `point` are those of `Obligations.ConstellationPoints`, the bins of `mux` those of
`Obligations.SpectrumFollowsRoles`. -/
def Obligations.FadeInTick : Prop :=
  ∀ s : State, s.inst.active = true → s.inst.txSeg = 0 → 2 ≤ s.cfg.k →
    let E := build s.cfg
    let codes := if s.inst.txDvValid
      then s.inst.txCode.mapIdx fun d c => newCode s.cfg.offset c (dvGet s.inst.txDv d) else s.inst.txCode
    let wave := inverse E (mux s.cfg (codes.map (point E.num)) ⟨1, 0⟩)
    exec (.txtick true) s = .next
      { s with
        inst := { s.inst with
          txCode := codes
          txBuf := Mem.ofList wave
          txDvValid := false
          txSymCnt := (s.inst.txSymCnt + 1) % 2 ^ s.cfg.cntW
          txSeg := 1 }
        rxin := []
        ds := []
        out := some
          { rc := .ok
            txout := some ((List.range s.cfg.b).map fun j => (wave.getD j Cpx.zero).re * E.num.window s.cfg.b j) }
        stepNo := s.stepNo + 1 }

/-- R193: a `BODY` tick emits the unmodified stored samples of its block and moves to the next segment. -/
def Obligations.BodyTick : Prop :=
  ∀ s : State, s.inst.active = true → 1 ≤ s.inst.txSeg → s.inst.txSeg + 2 ≤ s.cfg.k →
    exec (.txtick true) s = .next
      { s with
        inst := { s.inst with txSeg := s.inst.txSeg + 1 }
        rxin := []
        ds := []
        out := some
          { rc := .ok
            txout := some ((List.range s.cfg.b).map fun j =>
              (Mem.read s.inst.txBuf (s.inst.txSeg * s.cfg.b + j)).re) }
        stepNo := s.stepNo + 1 }

/-- R194: a `FADE_OUT` tick fetches the next Data Vector and emits the last block times the falling half of the
window. The fetched vector is the one on the port, when the port carries one; that it is some vector of `DVLEN` bytes
otherwise is the model's choice (log 13). -/
def Obligations.FadeOutTick : Prop :=
  ∀ s : State, s.inst.active = true → s.inst.txSeg = s.cfg.k - 1 → 2 ≤ s.cfg.k →
    ∃ dv : List Byte, dv.length = (layout s.cfg).dvlen ∧
      (s.ds.length = (layout s.cfg).dvlen → dv = s.ds) ∧
      exec (.txtick true) s = .next
        { s with
          inst := { s.inst with txDv := dv, txDvValid := true, txSeg := 0 }
          rxin := []
          ds := []
          out := some
            { rc := .ok
              txout := some ((List.range s.cfg.b).map fun j =>
                (Mem.read s.inst.txBuf ((s.cfg.k - 1) * s.cfg.b + j)).re *
                  (num s.cfg).window s.cfg.b (s.cfg.b - j))
              dsUsed := true }
          stepNo := s.stepNo + 1 }

/-- R223, first line: a receive tick on an inactive instance releases its block unread. -/
def Obligations.InactiveReceiveTick : Prop :=
  ∀ (v : Bool) (s : State), s.inst.active = false → exec (.rxtick v) s =
    .next { s with rxin := [], ds := [], out := some { rc := .inactive }, stepNo := s.stepNo + 1 }

/-- R197, R223: a receive tick that does not fill the buffer stores its samples, or `B` zeros when it was starved, at
the next free indices, and changes nothing else. That a port that carries fewer than `B` samples still gives some block of
`B` samples is the model's choice (log 13). -/
def Obligations.ReceiveTickStoresBlock : Prop :=
  Rc.starvedInput.code = 3 ∧
  ∀ (v : Bool) (s : State), s.inst.active = true → Mem.wf s.inst.rxBuf →
    s.inst.rxIdx + s.cfg.b < s.cfg.n →
    ∃ (blk : List Rat) (buf : Mem Rat),
      blk.length = s.cfg.b ∧ (v = false → ∀ x ∈ blk, x = 0) ∧
      (v = true → s.rxin.length = s.cfg.b → blk = s.rxin) ∧
      exec (.rxtick v) s = .next
        { s with
          inst := { s.inst with rxBuf := buf, rxIdx := s.inst.rxIdx + s.cfg.b }
          rxin := []
          ds := []
          out := some { rc := if v then .ok else .starvedInput }
          stepNo := s.stepNo + 1 } ∧
      ∀ a : Nat, Mem.read buf a =
        if s.inst.rxIdx ≤ a ∧ a < s.inst.rxIdx + s.cfg.b then ⟨blk.getD (a - s.inst.rxIdx) 0, 0⟩
        else Mem.read s.inst.rxBuf a

/-- R169, R197: a receive tick that fills the buffer runs the decoder on it and starts over: the buffer holds the
spectrum, the stored angles are this symbol's, the pilot averages and the counter move, and unless it was the first
symbol one Data Vector goes to the listener. Which bins `demux` takes is in `Obligations.DemuxReadsActiveBinsOnly`. That a
port that carries fewer than `B` samples still gives some block of `B` samples is the model's choice (log 13). -/
def Obligations.ReceiveTickDecodes : Prop :=
  ∀ (v : Bool) (s : State), s.inst.active = true → Mem.wf s.inst.rxBuf → 1 ≤ s.cfg.b →
    s.inst.rxIdx + s.cfg.b = s.cfg.n →
    ∃ (blk : List Rat) (buf : Mem Rat),
      blk.length = s.cfg.b ∧ (v = false → ∀ x ∈ blk, x = 0) ∧
      (v = true → s.rxin.length = s.cfg.b → blk = s.rxin) ∧
      (∀ a : Nat, Mem.read buf a =
        if s.inst.rxIdx ≤ a ∧ a < s.inst.rxIdx + s.cfg.b then ⟨blk.getD (a - s.inst.rxIdx) 0, 0⟩
        else Mem.read s.inst.rxBuf a) ∧
      let E := build s.cfg
      let Y := forward E ((List.range s.cfg.n).map (Mem.read buf))
      let y := demux s.cfg Y
      let angles := y.ydata.map fun z => E.num.atan2 z.im z.re
      exec (.rxtick v) s = .next
        { s with
          inst := { s.inst with
            rxBuf := Mem.ofList Y
            rxPhase := angles
            pltAvg := s.inst.pltAvg.mapIdx fun p avg =>
              avg + s.cfg.alpha * (normAngle E.num (angle E.num (y.ypil2.getD p Cpx.zero)
                - angle E.num (y.ypil1.getD p Cpx.zero)) - avg)
            rxSymCnt := (s.inst.rxSymCnt + 1) % 2 ^ s.cfg.cntW
            rxFirstDone := true
            rxIdx := 0 }
          rxin := []
          ds := []
          out := some
            { rc := if v then .ok else .starvedInput
              listener := if s.inst.rxFirstDone
                then [decodeFields E.num (layout s.cfg) angles s.inst.rxPhase] else [] }
          stepNo := s.stepNo + 1 }

/-- R224, R98: `RDSTS` answers the status word. -/
def Obligations.RdstsAnswersStatusWord : Prop :=
  ∀ s : State, ∃ w : DataWord,
    exec .rdsts s =
      .next { s with rxin := [], ds := [], out := some { rc := .ok, word := w }, stepNo := s.stepNo + 1 } ∧
    w.toNat = s.inst.active.toNat + 2 * s.inst.rxFirstDone.toNat + 4 * s.inst.txDvValid.toNat +
      8 * (if s.inst.txSeg = 0 then 0 else if s.inst.txSeg = s.cfg.k - 1 then 2 else 1)

/-- R225, R226, R103: `RDTXC` and `RDRXC` answer the counters, zero-extended to 32 bits. A counter value that fits no
32-bit word (possible only with `CNT_W > 32`) is not covered by R103: the command completes there too (log 15). -/
def Obligations.CounterReadsAnswerCounters : Prop :=
  ∀ s : State, ∃ wt wr : DataWord,
    exec .rdtxc s =
      .next { s with rxin := [], ds := [], out := some { rc := .ok, word := wt }, stepNo := s.stepNo + 1 } ∧
    exec .rdrxc s =
      .next { s with rxin := [], ds := [], out := some { rc := .ok, word := wr }, stepNo := s.stepNo + 1 } ∧
    (s.inst.txSymCnt < 2 ^ 32 → wt.toNat = s.inst.txSymCnt) ∧
    (s.inst.rxSymCnt < 2 ^ 32 → wr.toNat = s.inst.rxSymCnt)

/-- R227: `RDPLT p` answers the average of pair `p`, or `BadArgument` with data 0 when there is no such pair. -/
def Obligations.RdpltAnswersAverage : Prop :=
  Rc.badArgument.code = 5 ∧
  (∀ (p : Nat) (s : State), p < (layout s.cfg).p → exec (.rdplt p) s =
    .next { s with rxin := [], ds := [], out := some { rc := .ok, value := s.inst.pltAvg.getD p 0 },
                   stepNo := s.stepNo + 1 }) ∧
  (∀ (p : Nat) (s : State), (layout s.cfg).p ≤ p → exec (.rdplt p) s =
    .next { s with rxin := [], ds := [], out := some { rc := .badArgument }, stepNo := s.stepNo + 1 }) ∧
  (∀ c : Cfg, (layout c).p = if c.valid then c.channels / (c.chunkData + 2) else 0)

/-! ## Frames and conditions -/

/-- R247: the order among the conditions that can meet in one command. No hypothesis but the higher condition's own stands
in a clause, so the lower conditions may hold too. -/
def Obligations.ConditionPriority : Prop :=
  (∀ (a : Bool) (s t : State), s.inst.active = false → exec (.txtick a) s = .next t →
    t.out = some { rc := .inactive }) ∧
  (∀ (v : Bool) (s t : State), s.inst.active = false → exec (.rxtick v) s = .next t →
    t.out = some { rc := .inactive }) ∧
  (∀ (p : Nat) (s t : State), (layout s.cfg).p ≤ p → exec (.rdplt p) s = .next t →
    t.out = some { rc := .badArgument }) ∧
  (∀ (s t : State) (c : Command) (rest : List Command) (e : Reject), s.port = c :: rest →
    decode c.word = .error e → step s = .next t → t.out = some { rc := .badCommand }) ∧
  (∀ (x : Nat) (s t : State), exec (.reserved x) s = .next t → t.out = some { rc := .badCommand }) ∧
  (∀ s t : State, s.inst.active = true → exec (.txtick false) s = .next t → t.out = some { rc := .txNoBuffer }) ∧
  (∀ (s t : State) (r : Response), s.inst.active = true → exec (.rxtick false) s = .next t → t.out = some r →
    r.rc = .starvedInput)

/-- R248: for response codes 1, 2, 4 and 5 the state of the instance after the command is the state before it, and
nothing is emitted. -/
def Obligations.ConditionsArePrecise : Prop :=
  ∀ (i : Instr) (s t : State) (r : Response), Invariant s → exec i s = .next t → t.out = some r →
    r.rc ∈ [Rc.inactive, Rc.txNoBuffer, Rc.badCommand, Rc.badArgument] →
    t.inst = s.inst ∧ r.word = 0 ∧ r.value = 0 ∧ r.txout = none ∧ r.listener = [] ∧ r.dsUsed = false

/-- The frame of `TXTICK` (R20, R191): the receive half, `active`, and everything around the instance are unchanged; the
transmit buffer and the codes change at `FADE_IN` only, the prefetched bytes at `FADE_OUT` only. -/
def Obligations.TransmitTickFrame : Prop :=
  ∀ (a : Bool) (s t : State), exec (.txtick a) s = .next t →
    Inst.SameRx s.inst t.inst ∧ t.inst.active = s.inst.active ∧ SameAround s t ∧
    (s.inst.txSeg ≠ 0 → t.inst.txCode = s.inst.txCode ∧ t.inst.txSymCnt = s.inst.txSymCnt ∧
      ∀ x : Nat, Mem.read t.inst.txBuf x = Mem.read s.inst.txBuf x) ∧
    (s.inst.txSeg ≠ s.cfg.k - 1 → t.inst.txDv = s.inst.txDv) ∧
    (s.inst.txSeg ≠ 0 → s.inst.txSeg ≠ s.cfg.k - 1 → t.inst.txDvValid = s.inst.txDvValid)

/-- The frame of `RXTICK` (R20, R197), from every state, whatever the fill index is: the transmit half, `active`, and
everything around the instance are unchanged; unless the buffer fills, only the receive buffer from the fill index on
and the index itself change. -/
def Obligations.ReceiveTickFrame : Prop :=
  ∀ (v : Bool) (s t : State), exec (.rxtick v) s = .next t →
    Inst.SameTx s.inst t.inst ∧ t.inst.active = s.inst.active ∧ SameAround s t ∧
    (s.inst.rxIdx + s.cfg.b < s.cfg.n → t.inst.rxPhase = s.inst.rxPhase ∧ t.inst.pltAvg = s.inst.pltAvg ∧
      t.inst.rxSymCnt = s.inst.rxSymCnt ∧ t.inst.rxFirstDone = s.inst.rxFirstDone ∧
      (Mem.wf s.inst.rxBuf → ∀ x : Nat, ¬ (s.inst.rxIdx ≤ x ∧ x < s.inst.rxIdx + s.cfg.b) →
        Mem.read t.inst.rxBuf x = Mem.read s.inst.rxBuf x))

/-- R21, R28: `active` is written only by reset, and only reset clears `rx_first_done`. -/
def Obligations.OnlyResetWritesModes : Prop :=
  ∀ (i : Instr) (s t : State), exec i s = .next t → i ≠ .rst →
    t.inst.active = s.inst.active ∧ (s.inst.rxFirstDone = true → t.inst.rxFirstDone = true)

/-- R222, R194, R71: `DATASOURCE()` is called by a `TXTICK` that runs at `FADE_OUT` and by nothing else. -/
def Obligations.DatasourceOnlyAtFadeOut : Prop :=
  ∀ (i : Instr) (s t : State) (r : Response), exec i s = .next t → t.out = some r →
    (r.dsUsed = true ↔ i = .txtick true ∧ s.inst.active = true ∧ s.inst.txSeg = s.cfg.k - 1)

/-- R70 (b), R197: between commands that keep the invariant a receive tick delivers at most one Data Vector, and it
delivers one exactly when it fills the buffer of an active instance past its first symbol. -/
def Obligations.OneEventPerReceiveTick : Prop :=
  ∀ (v : Bool) (s t : State) (r : Response), Invariant s → exec (.rxtick v) s = .next t → t.out = some r →
    r.listener.length =
      if s.inst.active = true ∧ s.inst.rxIdx + s.cfg.b = s.cfg.n ∧ s.inst.rxFirstDone = true then 1 else 0

/-- R250: a delivered Data Vector has `DVLEN` bytes, and its fields beyond the last data channel are 0. -/
def Obligations.ListenerVectorsAreWhole : Prop :=
  ∀ (v : Bool) (s t : State) (r : Response) (dv : List Byte), exec (.rxtick v) s = .next t → t.out = some r →
    dv ∈ r.listener →
    dv.length = (layout s.cfg).dvlen ∧ ∀ d : Nat, (layout s.cfg).d ≤ d → dvGet dv d = 0

/-- R182: the pilot estimate feeds back into nothing: whatever the averages are, every command leaves the rest of the
instance the same; every command but `RDPLT` answers the same, and `RDPLT` answers the same but for the value it reads. -/
def Obligations.PilotEstimateFeedsNothing : Prop :=
  ∀ (i : Instr) (s t : State) (q : List Rat), exec i s = .next t →
    ∃ u : State, exec i { s with inst := { s.inst with pltAvg := q } } = .next u ∧
      ({ u.inst with pltAvg := t.inst.pltAvg } : Inst Rat) = t.inst ∧
      ((∀ p : Nat, i ≠ .rdplt p) → u.out = t.out) ∧
      u.out.map (fun r => { r with value := 0 }) = t.out.map (fun r => { r with value := 0 })

/-! ## Runs of ticks -/

/-- R102: the two ticks of `TICK` can be taken in either order: the resulting state of the instance is the same. A receive
tick that takes a block (`V = 1`) must find a whole one on its port, and a transmit tick that fetches a Data Vector (`A = 1`
at the last segment) a whole one on its own: what a short port gives depends in the model on the step in which it is read
(log 13). -/
def Obligations.TickHalvesCommute : Prop :=
  ∀ (s t u : State) (a v : Bool) (cr ct : Command) (rest : List Command),
    cr.word = encode (.rxtick v) → ct.word = encode (.txtick a) →
    (v = true → cr.rxin.length = s.cfg.b) →
    (a = true → s.inst.txSeg = s.cfg.k - 1 → ct.ds.length = (layout s.cfg).dvlen) →
    Sys2Proof.core.run 2 { s with port := cr :: ct :: rest } = .next t →
    Sys2Proof.core.run 2 { s with port := ct :: cr :: rest } = .next u →
    t.inst = u.inst

/-- R272, R198: `K` receive ticks from a symbol boundary fill the buffer and decode once, on the `K`-th. That a tick with
`V = 1` whose port carries fewer than `B` samples still stores `B` samples is the model's choice (log 13). -/
def Obligations.ReceiveSymbolTakesKTicks : Prop :=
  ∀ (s : State) (cmds rest : List Command), Invariant s → s.inst.active = true → s.inst.rxIdx = 0 →
    s.port = cmds ++ rest → cmds.length = s.cfg.k →
    (∀ c ∈ cmds, ∃ v : Bool, c.word = encode (.rxtick v)) →
    (∀ j < s.cfg.k, ∃ t : State, Sys2Proof.core.run j s = .next t ∧ t.inst.rxIdx = j * s.cfg.b ∧
      t.inst.rxSymCnt = s.inst.rxSymCnt ∧ t.inst.rxFirstDone = s.inst.rxFirstDone) ∧
    ∃ t : State, Sys2Proof.core.run s.cfg.k s = .next t ∧ t.inst.rxIdx = 0 ∧ t.port = rest ∧
      t.inst.rxSymCnt = (s.inst.rxSymCnt + 1) % 2 ^ s.cfg.cntW ∧ t.inst.rxFirstDone = true

/-- R191, R200, R272: `K` transmit ticks with a buffer from a symbol start encode once, on the first, and fetch one Data
Vector, on the last. That the fetch completes when the port carries fewer than `DVLEN` bytes is the model's choice
(log 13). -/
def Obligations.TransmitSymbolTakesKTicks : Prop :=
  ∀ (s : State) (cmds rest : List Command), Invariant s → s.inst.active = true → s.inst.txSeg = 0 →
    s.port = cmds ++ rest → cmds.length = s.cfg.k → (∀ c ∈ cmds, c.word = encode (.txtick true)) →
    (∀ j : Nat, 1 ≤ j → j < s.cfg.k → ∃ t : State, Sys2Proof.core.run j s = .next t ∧ t.inst.txSeg = j ∧
      t.inst.txDvValid = false ∧ t.inst.txSymCnt = (s.inst.txSymCnt + 1) % 2 ^ s.cfg.cntW) ∧
    ∃ t : State, Sys2Proof.core.run s.cfg.k s = .next t ∧ t.inst.txSeg = 0 ∧ t.inst.txDvValid = true ∧
      t.port = rest ∧ t.inst.txSymCnt = (s.inst.txSymCnt + 1) % 2 ^ s.cfg.cntW

/-! ## Allocator, multiplexer, demultiplexer -/

/-- R121: what every allocation must meet: each active bin has exactly one role, the two bins of a pair are adjacent,
both kinds of channel are numbered in ascending bin order, and no other bin has a role. R7, R122, R123, R127: the counts,
and which bin each array entry is; R271: all three counts are 0 for an invalid configuration. -/
def Obligations.AllocationMeetsConstraints : Prop :=
  (∀ c : Cfg, c.valid = false → (layout c).p = 0 ∧ (layout c).d = 0 ∧ (layout c).dvlen = 0) ∧
  ∀ c : Cfg, c.valid = true →
    let L := layout c
    (1 ≤ c.channelMin ∧ c.channelMax ≤ c.n / 2 - 1) ∧
    L.dataBin.Pairwise (· < ·) ∧ L.pilot1.Pairwise (· < ·) ∧
    L.pilot2 = L.pilot1.map (· + 1) ∧
    (L.dataBin ++ L.pilot1 ++ L.pilot2).Nodup ∧
    (∀ i : Nat, i ∈ L.dataBin ++ L.pilot1 ++ L.pilot2 ↔ c.channelMin ≤ i ∧ i ≤ c.channelMax) ∧
    (L.p * (c.chunkData + 2) = c.channels ∧ L.d = L.p * c.chunkData ∧ L.dvlen = (L.d + 3) / 4) ∧
    (L.dataBin.length = L.d ∧ L.pilot1.length = L.p ∧ L.pilot2.length = L.p) ∧
    (∀ q < L.p, L.pilot1.getD q 0 = c.channelMin + q * (c.chunkData + 2) + c.pilotOfs) ∧
    ∀ q < L.p, ∀ r < c.chunkData, L.dataBin.getD (q * c.chunkData + r) 0 =
      c.channelMin + q * (c.chunkData + 2) + r + (if r < c.pilotOfs then 0 else 2)

/-- R125: `DEMUX` gives each output the element of its own bin, `D` data values and `P` pairs of pilot values; and it reads
the active bins and nothing else of a spectrum. -/
def Obligations.DemuxReadsActiveBinsOnly : Prop :=
  (∀ (c : Cfg) (Y : List (Cpx Rat)), c.valid = true →
    let L := layout c
    let y := demux c Y
    (y.ydata.length = L.d ∧ y.ypil1.length = L.p ∧ y.ypil2.length = L.p) ∧
    (∀ d < L.d, y.ydata.getD d Cpx.zero = Y.getD (L.dataBin.getD d 0) Cpx.zero) ∧
    (∀ p < L.p, y.ypil1.getD p Cpx.zero = Y.getD (L.pilot1.getD p 0) Cpx.zero) ∧
    ∀ p < L.p, y.ypil2.getD p Cpx.zero = Y.getD (L.pilot2.getD p 0) Cpx.zero) ∧
  ∀ (c : Cfg) (Y Z : List (Cpx Rat)), c.valid = true →
    (∀ i : Nat, c.channelMin ≤ i → i ≤ c.channelMax → Y.getD i Cpx.zero = Z.getD i Cpx.zero) →
    demux c Y = demux c Z

/-- R126: the transmit spectrum has Hermitian symmetry, and nothing at bin 0 and at bin `N/2`. -/
def Obligations.SpectrumIsHermitian : Prop :=
  ∀ (c : Cfg) (xdata : List (Cpx Rat)) (xpil : Cpx Rat), c.valid = true →
    let X := mux c xdata xpil
    X.length = c.n ∧
    (∀ i : Nat, 1 ≤ i → i < c.n → X.getD (c.n - i) Cpx.zero = (X.getD i Cpx.zero).conj) ∧
    X.getD 0 Cpx.zero = ⟨0, 0⟩ ∧ X.getD (c.n / 2) Cpx.zero = ⟨0, 0⟩

/-- R123, R126, R65: every bin of the transmit spectrum holds what its role says. -/
def Obligations.SpectrumFollowsRoles : Prop :=
  ∀ (c : Cfg) (xdata : List (Cpx Rat)) (xpil : Cpx Rat), c.valid = true →
    let X := mux c xdata xpil
    ∀ i : Nat, i < c.n → X.getD i Cpx.zero =
      match role c i with
      | .data d => xdata.getD d Cpx.zero
      | .pilot1 _ => xpil
      | .pilot2 _ => xpil
      | .mirror j => (X.getD j Cpx.zero).conj
      | .unused => Cpx.zero

/-! ## Data encodings -/

/-- R96: the Gray table, that it is its own inverse, and its formula. -/
def Obligations.GrayTable : Prop :=
  gray 0 = 0 ∧ gray 1 = 1 ∧ gray 2 = 3 ∧ gray 3 = 2 ∧
  ∀ b : Dibit, gray (gray b) = b ∧ gray b = b ^^^ (b >>> 1)

/-- R143, R145: the new phase code of a channel is `(c + 2*GRAY[b] + OFFSET) mod 8` with the mathematical modulo, for
every offset; 5 and -3 give the same result for every input. -/
def Obligations.PhaseCodeAdvance : Prop :=
  (∀ (offset : Int) (dv : List Byte) (codes : List PhaseCode) (d : Nat), d < codes.length →
    (((advanceCodes offset dv codes).getD d 0).toNat : Int) =
      ((codes.getD d 0).toNat + 2 * (gray (dvGet dv d)).toNat + offset) % 8) ∧
  ∀ (dv : List Byte) (codes : List PhaseCode), advanceCodes 5 dv codes = advanceCodes (-3) dv codes

/-- R67, R68: field `d` lies in byte `d div 4` at bits `2(d mod 4)+1 : 2(d mod 4)`; writing a field gives it back and
leaves every other field. -/
def Obligations.DataVectorFields : Prop :=
  (∀ (dv : List Byte) (d : Nat),
    (dvGet dv d).toNat = (dv.getD (d / 4) 0).toNat / 2 ^ (2 * (d % 4)) % 4) ∧
  ∀ (dv : List Byte) (d : Nat) (v : Byte), d / 4 < dv.length →
    (dvPut dv d v).length = dv.length ∧
    (dvGet (dvPut dv d v) d).toNat = v.toNat % 4 ∧
    ∀ e : Nat, e ≠ d → dvGet (dvPut dv d v) e = dvGet dv e

/-- R167, R169: field `d` of the Data Vector the decoder builds is the sector of channel `d`'s own phase difference. -/
def Obligations.DecodedFieldIsItsSector : Prop :=
  ∀ (c : Cfg) (angles stored : List Rat) (d : Nat), d < (layout c).d →
    dvGet (decodeFields (num c) (layout c) angles stored) d =
      sector (num c) (normAngle (num c) (-(angles.getD d 0 - stored.getD d 0)))

/-! ## Numerics -/

/-- R165, R99: the four-way split, over every ordered field and every numerics record. -/
def Obligations.SectorSplit : Prop :=
  ∀ (R : Type) [Field R] [LinearOrder R] [IsStrictOrderedRing R] (m : Num R) (x : R), 0 < m.halfPi →
    (m.halfPi < x → sector m x = 2) ∧ (0 ≤ x → x ≤ m.halfPi → sector m x = 3) ∧
    (x < -m.halfPi → sector m x = 0) ∧ (-m.halfPi ≤ x → x < 0 → sector m x = 1)

/-- R164, R171: `NORM` brings every difference of two angles into `[-π, π)` by at most one turn, and its corner cases. -/
def Obligations.NormIntoRange : Prop :=
  ∀ (R : Type) [Field R] [LinearOrder R] [IsStrictOrderedRing R] (m : Num R), 0 < m.halfPi →
    (∀ x : R, -m.twoPi ≤ x → x ≤ m.twoPi →
      -m.pi ≤ normAngle m x ∧ normAngle m x < m.pi ∧
      (normAngle m x = x ∨ normAngle m x = x - m.twoPi ∨ normAngle m x = x + m.twoPi)) ∧
    normAngle m m.pi = -m.pi ∧ normAngle m (-m.pi) = -m.pi ∧ normAngle m m.twoPi = 0 ∧ normAngle m (-m.twoPi) = 0 ∧
    normAngle m (3 * m.halfPi) = -m.halfPi ∧ normAngle m (-(3 * m.halfPi)) = m.halfPi ∧
    ∀ a stored : R, phaseDiff m a stored = normAngle m (-(a - stored))

/-- R183: with a constant pilot difference `x` the estimate after `n` updates is `x + (v0 - x)·0.98^n` in the reference
semantics; from 0 its error shrinks and is within 1% of the target after 228 updates and not after 227. -/
def Obligations.PilotEstimateConverges : Prop :=
  ∀ z x v0 : ℝ,
    (∀ n : Nat, (fun v => smooth (refNum z) v x)^[n] v0 = x + (v0 - x) * 0.98 ^ n) ∧
    (∀ n : Nat, |(fun v => smooth (refNum z) v x)^[n + 1] 0 - x| ≤ |(fun v => smooth (refNum z) v x)^[n] 0 - x|) ∧
    |(fun v => smooth (refNum z) v x)^[228] 0 - x| ≤ 0.01 * |x| ∧
    (x ≠ 0 → 0.01 * |x| < |(fun v => smooth (refNum z) v x)^[227] 0 - x|)

/-- R195: the window table of the machine, whatever its free values are, and the reference table: the endpoints, that it
never falls, and the symmetry. -/
def Obligations.WindowTableShape : Prop :=
  (∀ (c : Cfg) (b : Nat), 1 ≤ b →
    (num c).window b 0 = 0 ∧ (num c).window b b = 1 ∧
    (∀ j < b, (num c).window b j ≤ (num c).window b (j + 1)) ∧
    ∀ j ≤ b, (num c).window b j + (num c).window b (b - j) = 1) ∧
  ∀ (z : ℝ) (b : Nat), 1 ≤ b →
    (refNum z).window b 0 = 0 ∧ (refNum z).window b b = 1 ∧
    (∀ j < b, (refNum z).window b j ≤ (refNum z).window b (j + 1)) ∧
    ∀ j ≤ b, (refNum z).window b j + (refNum z).window b (b - j) = 1

/-- R196: over the `K` segments every emitted sample is the stored sample times the envelope, and the envelope is
symmetric about the symbol boundary. -/
def Obligations.EnvelopeOfSymbol : Prop :=
  (∀ s : State, s.cfg.valid = true → s.inst.active = true → s.inst.txSeg < s.cfg.k →
    ∃ (t : State) (r : Response) (blk : List Rat), exec (.txtick true) s = .next t ∧ t.out = some r ∧
      r.txout = some blk ∧ blk.length = s.cfg.b ∧
      ∀ j < s.cfg.b, blk.getD j 0 =
        (Mem.read t.inst.txBuf (s.inst.txSeg * s.cfg.b + j)).re *
          envelope (build s.cfg) (s.inst.txSeg * s.cfg.b + j)) ∧
  ∀ c : Cfg, c.valid = true → ∀ n : Nat, 1 ≤ n → n < c.n →
    envelope (build c) n = envelope (build c) (c.n - n)

/-! ## Bootstrap and the round trip -/

/-- R151, R24: on the reference pass no Data Vector is read: the codes stay, and the symbol sent and the state left do
not depend on what `tx_dv` holds. -/
def Obligations.ReferencePassReadsNoDataVector : Prop :=
  ∀ (s : State) (dv : List Byte), s.inst.active = true → s.inst.txSeg = 0 → s.inst.txDvValid = false → 2 ≤ s.cfg.k →
    ∃ t u : State, exec (.txtick true) s = .next t ∧
      exec (.txtick true) { s with inst := { s.inst with txDv := dv } } = .next u ∧
      t.inst.txCode = s.inst.txCode ∧ t.inst.txSymCnt = (s.inst.txSymCnt + 1) % 2 ^ s.cfg.cntW ∧
      u.out = t.out ∧ u.inst = { t.inst with txDv := dv }

/-- R27, R163: the first decode writes every stored angle before any is read: what `rx_phase` held before has no effect,
nothing goes to the listener, and `rx_first_done` is set. -/
def Obligations.BootstrapReadsNoStoredAngle : Prop :=
  ∀ (v : Bool) (s : State) (ph : List Rat), s.inst.active = true → s.inst.rxFirstDone = false → 1 ≤ s.cfg.b →
    s.inst.rxIdx + s.cfg.b = s.cfg.n →
    ∃ (t u : State) (r : Response), exec (.rxtick v) s = .next t ∧
      exec (.rxtick v) { s with inst := { s.inst with rxPhase := ph } } = .next u ∧
      u = t ∧ t.out = some r ∧ r.listener = [] ∧ t.inst.rxFirstDone = true ∧
      t.inst.rxPhase.length = (layout s.cfg).d

/-- R174 (a): two symbols in a row whose received spectrum is all zeros decode to value 3 on every channel, whatever
`ATAN2(0, 0)` is. -/
def Obligations.SilentSymbolsDecodeToThree : Prop :=
  ∀ (R : Type) [Field R] [LinearOrder R] [IsStrictOrderedRing R] (E : Build R) (S : Inst R) (buf : Mem R),
    0 < E.num.halfPi →
    (∀ i : Nat, (rxSpectrum E S).getD i Cpx.zero = Cpx.zero) →
    (∀ i : Nat, (rxSpectrum E { S with rxBuf := buf }).getD i Cpx.zero = Cpx.zero) →
    ∀ d : Nat, d < (layout E.cfg).d → dvGet (decodedDv E { decSym E S with rxBuf := buf }) d = 3

/-- R174 (b): a rotation of a channel that is the same in two successive symbols cancels. First for the angles, with a
rotation of its own for each channel; then for angles in `[-PI, PI]` that the rotation may take through the seam, each
by turns of its own; then in the reference semantics for the received points themselves, with a gain of its own for each
channel and symbol (R174 (d)), where a channel that received `(0, 0)` has no angle and is left out. -/
def Obligations.ConstantRotationCancels : Prop :=
  (∀ (R : Type) [Field R] [LinearOrder R] [IsStrictOrderedRing R] (m : Num R) (c : Cfg) (a s a' s' : List R),
    (∀ d < (layout c).d, ∃ φ : R, a'.getD d 0 = a.getD d 0 + φ ∧ s'.getD d 0 = s.getD d 0 + φ) →
    decodeFields m (layout c) a' s' = decodeFields m (layout c) a s) ∧
  (∀ (R : Type) [Field R] [LinearOrder R] [IsStrictOrderedRing R] (m : Num R) (c : Cfg) (a s a' s' : List R),
    0 < m.halfPi →
    (∀ l ∈ [a, s, a', s'], ∀ d < (layout c).d, -m.pi ≤ l.getD d 0 ∧ l.getD d 0 ≤ m.pi) →
    (∀ d < (layout c).d, ∃ (φ : R) (i j : Int),
      a'.getD d 0 = a.getD d 0 + φ + i * m.twoPi ∧ s'.getD d 0 = s.getD d 0 + φ + j * m.twoPi) →
    decodeFields m (layout c) a' s' = decodeFields m (layout c) a s) ∧
  ∀ (z : ℝ) (c : Cfg) (Y T Y' T' : List (Cpx ℝ)), c.valid = true →
    (∀ i ∈ (layout c).dataBin, Y.getD i Cpx.zero ≠ Cpx.zero ∧ T.getD i Cpx.zero ≠ Cpx.zero ∧
      ∃ φ g h : ℝ, 0 < g ∧ 0 < h ∧
        Y'.getD i Cpx.zero = rotate g φ (Y.getD i Cpx.zero) ∧ T'.getD i Cpx.zero = rotate h φ (T.getD i Cpx.zero)) →
    decodeFields (refNum z) (layout c) (dataAngles (refNum z) (demux c Y')) (dataAngles (refNum z) (demux c T')) =
      decodeFields (refNum z) (layout c) (dataAngles (refNum z) (demux c Y)) (dataAngles (refNum z) (demux c T))

/-- R172: in the reference semantics, under the loopback contract and with `OFFSET = 5`, the encoder's output fed straight
to the decoder comes back: a receiver that has just decoded the symbol before delivers the Data Vector the encoder was
given, field for field, and bit for bit when its unused fields are 0. -/
def Obligations.LoopbackRoundTrip : Prop :=
  ∀ (c : Cfg) (x : Xf ℝ) (z : ℝ) (S T : Inst ℝ),
    let E : Build ℝ := { cfg := c, num := refNum z, xf := x }
    c.valid = true → c.offset = 5 → LoopbackConj E →
    S.txDvValid = true → S.txCode.length = (layout c).d →
    S.txBuf = Mem.ofList (inverse E (txSpectrum E S.txCode)) →
    let T1 := decSym E { T with rxBuf := ingest E S.txBuf }
    let T2 := { T1 with rxBuf := ingest E (encSym E S).txBuf }
    ∃ dv : List Byte, decEvents E T2 = [dv] ∧ (∀ d < (layout c).d, dvGet dv d = dvGet S.txDv d) ∧
      (S.txDv.length = (layout c).dvlen → (∀ d ≥ (layout c).d, dvGet S.txDv d = 0) → dv = S.txDv)

/-- R173: what the decoder returns in the same loop with a pair that does not conjugate and `OFFSET = 5` (`b xor 2`), with
such a pair and `OFFSET = 3` (the bit-reversed pair), and with a conjugating pair and `OFFSET = 3`. -/
def Obligations.OtherChoicesPermuteFields : Prop :=
  ∀ (c : Cfg) (x : Xf ℝ) (z : ℝ) (S T : Inst ℝ) (d : Nat),
    let E : Build ℝ := { cfg := c, num := refNum z, xf := x }
    c.valid = true → S.txDvValid = true → S.txCode.length = (layout c).d →
    S.txBuf = Mem.ofList (inverse E (txSpectrum E S.txCode)) → d < (layout c).d →
    let T1 := decSym E { T with rxBuf := ingest E S.txBuf }
    let T2 := { T1 with rxBuf := ingest E (encSym E S).txBuf }
    let b := dvGet S.txDv d
    (LoopbackPlain E → c.offset = 5 → dvGet (decodedDv E T2) d = b ^^^ 2) ∧
    (LoopbackPlain E → c.offset = 3 → dvGet (decodedDv E T2) d = [0, 2, 1, 3].getD b.toNat 0) ∧
    (LoopbackConj E → c.offset = 3 → dvGet (decodedDv E T2) d = [2, 0, 3, 1].getD b.toNat 0)

/-! ## The numerics record as a parameter -/

/-- R97, R146, R147: the constellation. In the reference semantics the point of code `c` is the table's row, which is
`(cos(c·π/4), sin(c·π/4))`, of modulus 1; in the machine, whatever its free values are, the cosine table has the symmetries
R8 asks of every numerics record, the point is `(COS8[c], COS8[(c+6) mod 8])` and the pilot point is `(1, 0)`; and these are
the points `MUX` is given. -/
def Obligations.ConstellationPoints : Prop :=
  (∀ (z : ℝ) (c : PhaseCode),
    let h := Real.sqrt 2 / 2
    point (refNum z) c = ⟨[1, h, 0, -h, -1, -h, 0, h].getD c.toNat 0, [0, h, 1, h, 0, -h, -1, -h].getD c.toNat 0⟩ ∧
    point (refNum z) c = ⟨Real.cos (c.toNat * (Real.pi / 4)), Real.sin (c.toNat * (Real.pi / 4))⟩ ∧
    (point (refNum z) c).re ^ 2 + (point (refNum z) c).im ^ 2 = 1) ∧
  ∀ (cfg : Cfg),
    let m := num cfg
    m.cos8 0 = 1 ∧ m.cos8 2 = 0 ∧ m.cos8 4 = -1 ∧ m.cos8 6 = 0 ∧
    (∀ c : PhaseCode, m.cos8 (0 - c) = m.cos8 c ∧ m.cos8 (c + 4) = -m.cos8 c) ∧
    (∀ c : PhaseCode, point m c = ⟨m.cos8 c, m.cos8 (c + 6)⟩) ∧
    pilotPoint m = ⟨1, 0⟩ ∧
    ∀ codes : List PhaseCode, txSpectrum (build cfg) codes =
      mux cfg (codes.map fun c => ⟨m.cos8 c, m.cos8 (c + 6)⟩) ⟨1, 0⟩

/-- R8, R14: the machine's command and its step are the block's command and step, which take `NUM` and `XF` as a parameter,
at the machine's numerics. -/
def Obligations.StepIsTheBlockAtMachineNumerics : Prop :=
  (∀ (i : Instr) (s : State), exec i s = .next { toSys := s.toSys.exec machineEnv i }) ∧
  ∀ s : State, step s = .next { toSys := s.toSys.step machineEnv }

/-- R38 in the reference semantics of R8: the block over the real numbers keeps the invariant at every step, from every
state that meets it, whatever the transform pair and the unspecified values are and for every `ATAN2(0, 0)` in `[-π, π]`;
power-on of every configuration meets it. -/
def Obligations.ReferenceStepKeepsInvariant : Prop :=
  ∀ z : ℝ, -Real.pi ≤ z → z ≤ Real.pi →
    (∀ c : Cfg, Sys.Invariant (fun _ => refNum z) (Sys.powerOn c : Sys ℝ)) ∧
    ∀ (x : Xf ℝ) (phase : Nat → ℝ) (sample : Nat → Nat → ℝ) (s : Sys ℝ),
      Sys.Invariant (fun _ => refNum z) s → Sys.Invariant (fun _ => refNum z) (refStep z x phase sample s)

/-- R8, R198: nothing of the numerics reaches what controls the block. Two blocks over any two types, with any operations
on them (exact or rounding), any constants, any transform pair and any samples, that agree on the configuration, the pending
words and every element that is no value of `R`, agree on all of these after a step, and answer with the same response code,
data word and events of the same sizes. In particular the decode trigger is the full buffer and no sample's value. -/
def Obligations.SequencingIgnoresSampleValues : Prop :=
  ∀ (R R' : Type) [Zero R] [One R] [Add R] [Sub R] [Neg R] [Mul R] [LinearOrder R]
    [Zero R'] [One R'] [Add R'] [Sub R'] [Neg R'] [Mul R'] [LinearOrder R']
    (X : Env R) (X' : Env R') (s : Sys R) (s' : Sys R'),
    s'.control = s.control → (s'.step X').control = (s.step X).control
end

