-- ==== Sys2Proof/Laws/State.lean ====
section
/-! SUPPORT. One lemma for each field after each update of the state: later proofs never unfold a record update.
The proofs are written `(rfl)`, so that `simp` uses the lemmas as rewrite rules and not by definitional unfolding. -/

set_option linter.unusedSectionVars false

namespace Sys2Proof.Machine

/-! ## The state around the instance -/

section
variable {R : Type} [Zero R] (s : Sys R) (c : CommandOf R) (rest : List (CommandOf R)) (S : Inst R) (r : ResponseOf R)
  (rc : Rc) (w : DataWord)

@[simp] theorem accept_cfg : (s.accept c rest).cfg = s.cfg := (rfl)
@[simp] theorem accept_inst : (s.accept c rest).inst = s.inst := (rfl)
@[simp] theorem accept_port : (s.accept c rest).port = rest := (rfl)
@[simp] theorem accept_rxin : (s.accept c rest).rxin = c.rxin := (rfl)
@[simp] theorem accept_ds : (s.accept c rest).ds = c.ds := (rfl)
@[simp] theorem accept_out : (s.accept c rest).out = s.out := (rfl)
@[simp] theorem accept_stepNo : (s.accept c rest).stepNo = s.stepNo := (rfl)
@[simp] theorem finish_cfg : (s.finish S r).cfg = s.cfg := (rfl)
@[simp] theorem finish_inst : (s.finish S r).inst = S := (rfl)
@[simp] theorem finish_port : (s.finish S r).port = s.port := (rfl)
@[simp] theorem finish_rxin : (s.finish S r).rxin = [] := (rfl)
@[simp] theorem finish_ds : (s.finish S r).ds = [] := (rfl)
@[simp] theorem finish_out : (s.finish S r).out = some r := (rfl)
@[simp] theorem finish_stepNo : (s.finish S r).stepNo = s.stepNo + 1 := (rfl)
@[simp] theorem raise_cfg : (raise rc s).cfg = s.cfg := (rfl)
@[simp] theorem raise_inst : (raise rc s).inst = s.inst := (rfl)
@[simp] theorem raise_port : (raise rc s).port = s.port := (rfl)
@[simp] theorem raise_rxin : (raise rc s).rxin = [] := (rfl)
@[simp] theorem raise_ds : (raise rc s).ds = [] := (rfl)
@[simp] theorem raise_out : (raise rc s).out = some { rc := rc } := (rfl)
@[simp] theorem raise_stepNo : (raise rc s).stepNo = s.stepNo + 1 := (rfl)
@[simp] theorem badCommand_cfg : (badCommand s).cfg = s.cfg := (rfl)
@[simp] theorem badCommand_inst : (badCommand s).inst = s.inst := (rfl)
@[simp] theorem badCommand_port : (badCommand s).port = s.port := (rfl)
@[simp] theorem badCommand_rxin : (badCommand s).rxin = [] := (rfl)
@[simp] theorem badCommand_ds : (badCommand s).ds = [] := (rfl)
@[simp] theorem badCommand_out : (badCommand s).out = some { rc := .badCommand } := (rfl)
@[simp] theorem badCommand_stepNo : (badCommand s).stepNo = s.stepNo + 1 := (rfl)
@[simp] theorem answerWord_cfg : (answerWord w s).cfg = s.cfg := (rfl)
@[simp] theorem answerWord_inst : (answerWord w s).inst = s.inst := (rfl)
@[simp] theorem answerWord_port : (answerWord w s).port = s.port := (rfl)
@[simp] theorem answerWord_rxin : (answerWord w s).rxin = [] := (rfl)
@[simp] theorem answerWord_ds : (answerWord w s).ds = [] := (rfl)
@[simp] theorem answerWord_out : (answerWord w s).out = some { rc := .ok, word := w } := (rfl)
@[simp] theorem answerWord_stepNo : (answerWord w s).stepNo = s.stepNo + 1 := (rfl)

end

section
variable {R : Type} [Zero R] [One R] [Add R] [Sub R] [Neg R] [Mul R] [LinearOrder R] (X : Env R) (v : Bool) (s : Sys R)

@[simp] theorem runTxStep_cfg : (runTxStep X s).cfg = s.cfg := (rfl)
@[simp] theorem runTxStep_inst : (runTxStep X s).inst =
    txStep (X.build s.cfg) (readDatasource s.stepNo (layout s.cfg).dvlen s.ds) s.inst := (rfl)
@[simp] theorem runTxStep_port : (runTxStep X s).port = s.port := (rfl)
@[simp] theorem runTxStep_rxin : (runTxStep X s).rxin = [] := (rfl)
@[simp] theorem runTxStep_ds : (runTxStep X s).ds = [] := (rfl)
@[simp] theorem runTxStep_out : (runTxStep X s).out =
    some { rc := .ok, txout := some (txBlock (X.build s.cfg) s.inst), dsUsed := txFetches (X.build s.cfg) s.inst } := (rfl)
@[simp] theorem runTxStep_stepNo : (runTxStep X s).stepNo = s.stepNo + 1 := (rfl)
@[simp] theorem runRxPush_cfg : (runRxPush X v s).cfg = s.cfg := (rfl)
@[simp] theorem runRxPush_inst : (runRxPush X v s).inst =
    (rxPush (X.build s.cfg) (rxBlock X v s) s.inst).1 := (rfl)
@[simp] theorem runRxPush_port : (runRxPush X v s).port = s.port := (rfl)
@[simp] theorem runRxPush_rxin : (runRxPush X v s).rxin = [] := (rfl)
@[simp] theorem runRxPush_ds : (runRxPush X v s).ds = [] := (rfl)
@[simp] theorem runRxPush_out : (runRxPush X v s).out =
    some { rc := if v then .ok else .starvedInput, listener := (rxPush (X.build s.cfg) (rxBlock X v s) s.inst).2 } := (rfl)
@[simp] theorem runRxPush_stepNo : (runRxPush X v s).stepNo = s.stepNo + 1 := (rfl)

end

section
variable {R : Type} [Zero R] [One R] [Add R] [Sub R] [Neg R] [Mul R] [LinearOrder R] (E : Build R) (S : Inst R) (x : R) (dv : List Byte)

@[simp] theorem encSym_active : (encSym E S).active = S.active := (rfl)
@[simp] theorem encSym_txCode : (encSym E S).txCode = sentCodes E S := (rfl)
@[simp] theorem encSym_txSeg : (encSym E S).txSeg = S.txSeg := (rfl)
@[simp] theorem encSym_txDv : (encSym E S).txDv = S.txDv := (rfl)
@[simp] theorem encSym_txDvValid : (encSym E S).txDvValid = false := (rfl)
@[simp] theorem encSym_txBuf : (encSym E S).txBuf = Mem.ofList (inverse E (txSpectrum E (sentCodes E S))) := (rfl)
@[simp] theorem encSym_txSymCnt : (encSym E S).txSymCnt = bumpCounter E.cfg S.txSymCnt := (rfl)
@[simp] theorem encSym_rxPhase : (encSym E S).rxPhase = S.rxPhase := (rfl)
@[simp] theorem encSym_rxFirstDone : (encSym E S).rxFirstDone = S.rxFirstDone := (rfl)
@[simp] theorem encSym_rxIdx : (encSym E S).rxIdx = S.rxIdx := (rfl)
@[simp] theorem encSym_rxBuf : (encSym E S).rxBuf = S.rxBuf := (rfl)
@[simp] theorem encSym_pltAvg : (encSym E S).pltAvg = S.pltAvg := (rfl)
@[simp] theorem encSym_rxSymCnt : (encSym E S).rxSymCnt = S.rxSymCnt := (rfl)

@[simp] theorem decSym_active : (decSym E S).active = S.active := (rfl)
@[simp] theorem decSym_txCode : (decSym E S).txCode = S.txCode := (rfl)
@[simp] theorem decSym_txSeg : (decSym E S).txSeg = S.txSeg := (rfl)
@[simp] theorem decSym_txDv : (decSym E S).txDv = S.txDv := (rfl)
@[simp] theorem decSym_txDvValid : (decSym E S).txDvValid = S.txDvValid := (rfl)
@[simp] theorem decSym_txBuf : (decSym E S).txBuf = S.txBuf := (rfl)
@[simp] theorem decSym_txSymCnt : (decSym E S).txSymCnt = S.txSymCnt := (rfl)
@[simp] theorem decSym_rxPhase : (decSym E S).rxPhase = dataAngles E.num (demux E.cfg (rxSpectrum E S)) := (rfl)
@[simp] theorem decSym_rxFirstDone : (decSym E S).rxFirstDone = true := (rfl)
@[simp] theorem decSym_rxIdx : (decSym E S).rxIdx = S.rxIdx := (rfl)
@[simp] theorem decSym_rxBuf : (decSym E S).rxBuf = Mem.ofList (rxSpectrum E S) := (rfl)
@[simp] theorem decSym_pltAvg : (decSym E S).pltAvg = pltUpd E.num (demux E.cfg (rxSpectrum E S)).ypil1 (demux E.cfg (rxSpectrum E S)).ypil2 S.pltAvg := (rfl)
@[simp] theorem decSym_rxSymCnt : (decSym E S).rxSymCnt = bumpCounter E.cfg S.rxSymCnt := (rfl)

@[simp] theorem storeSample_active : (storeSample S x).active = S.active := (rfl)
@[simp] theorem storeSample_txCode : (storeSample S x).txCode = S.txCode := (rfl)
@[simp] theorem storeSample_txSeg : (storeSample S x).txSeg = S.txSeg := (rfl)
@[simp] theorem storeSample_txDv : (storeSample S x).txDv = S.txDv := (rfl)
@[simp] theorem storeSample_txDvValid : (storeSample S x).txDvValid = S.txDvValid := (rfl)
@[simp] theorem storeSample_txBuf : (storeSample S x).txBuf = S.txBuf := (rfl)
@[simp] theorem storeSample_txSymCnt : (storeSample S x).txSymCnt = S.txSymCnt := (rfl)
@[simp] theorem storeSample_rxPhase : (storeSample S x).rxPhase = S.rxPhase := (rfl)
@[simp] theorem storeSample_rxFirstDone : (storeSample S x).rxFirstDone = S.rxFirstDone := (rfl)
@[simp] theorem storeSample_rxIdx : (storeSample S x).rxIdx = S.rxIdx + 1 := (rfl)
@[simp] theorem storeSample_rxBuf : (storeSample S x).rxBuf = Mem.write S.rxBuf S.rxIdx (Cpx.ofReal x) := (rfl)
@[simp] theorem storeSample_pltAvg : (storeSample S x).pltAvg = S.pltAvg := (rfl)
@[simp] theorem storeSample_rxSymCnt : (storeSample S x).rxSymCnt = S.rxSymCnt := (rfl)

@[simp] theorem txStep_active : (txStep E dv S).active = (txEncoded E S).active := (rfl)
@[simp] theorem txStep_txCode : (txStep E dv S).txCode = (txEncoded E S).txCode := (rfl)
@[simp] theorem txStep_txSeg : (txStep E dv S).txSeg = (S.txSeg + 1) % E.cfg.k := (rfl)
@[simp] theorem txStep_txDv : (txStep E dv S).txDv = (if txFetches E S then dv else (txEncoded E S).txDv) := (rfl)
@[simp] theorem txStep_txDvValid : (txStep E dv S).txDvValid = (if txFetches E S then true else (txEncoded E S).txDvValid) := (rfl)
@[simp] theorem txStep_txBuf : (txStep E dv S).txBuf = (txEncoded E S).txBuf := (rfl)
@[simp] theorem txStep_txSymCnt : (txStep E dv S).txSymCnt = (txEncoded E S).txSymCnt := (rfl)
@[simp] theorem txStep_rxPhase : (txStep E dv S).rxPhase = (txEncoded E S).rxPhase := (rfl)
@[simp] theorem txStep_rxFirstDone : (txStep E dv S).rxFirstDone = (txEncoded E S).rxFirstDone := (rfl)
@[simp] theorem txStep_rxIdx : (txStep E dv S).rxIdx = (txEncoded E S).rxIdx := (rfl)
@[simp] theorem txStep_rxBuf : (txStep E dv S).rxBuf = (txEncoded E S).rxBuf := (rfl)
@[simp] theorem txStep_pltAvg : (txStep E dv S).pltAvg = (txEncoded E S).pltAvg := (rfl)
@[simp] theorem txStep_rxSymCnt : (txStep E dv S).rxSymCnt = (txEncoded E S).rxSymCnt := (rfl)

/-- At `FADE_IN` the encoder runs first (R192). -/
@[simp] theorem txEncoded_fadeIn (h : S.txSeg = 0) : txEncoded E S = encSym E S := by simp [txEncoded, h]

/-- In every other segment the stored symbol is used as it is (R191). -/
@[simp] theorem txEncoded_later (h : S.txSeg ≠ 0) : txEncoded E S = S := by simp [txEncoded, h]

end

section
variable {R : Type} [Zero R] (c : Cfg) (b : Nat → Byte) (p : Nat → R)

@[simp] theorem resetInst_active : (resetInst c b p).active = c.valid := (rfl)
@[simp] theorem resetInst_txCode : (resetInst c b p).txCode = (List.range (layout c).d).map fun d => c.txSeed.getD d 0 := (rfl)
@[simp] theorem resetInst_txSeg : (resetInst c b p).txSeg = 0 := (rfl)
@[simp] theorem resetInst_txDv : (resetInst c b p).txDv = (List.range (layout c).dvlen).map b := (rfl)
@[simp] theorem resetInst_txDvValid : (resetInst c b p).txDvValid = false := (rfl)
@[simp] theorem resetInst_txBuf : (resetInst c b p).txBuf = [] := (rfl)
@[simp] theorem resetInst_txSymCnt : (resetInst c b p).txSymCnt = 0 := (rfl)
@[simp] theorem resetInst_rxPhase : (resetInst c b p).rxPhase = (List.range (layout c).d).map p := (rfl)
@[simp] theorem resetInst_rxFirstDone : (resetInst c b p).rxFirstDone = false := (rfl)
@[simp] theorem resetInst_rxIdx : (resetInst c b p).rxIdx = 0 := (rfl)
@[simp] theorem resetInst_rxBuf : (resetInst c b p).rxBuf = [] := (rfl)
@[simp] theorem resetInst_pltAvg : (resetInst c b p).pltAvg = List.replicate (layout c).p 0 := (rfl)
@[simp] theorem resetInst_rxSymCnt : (resetInst c b p).rxSymCnt = 0 := (rfl)

end

section
variable {R : Type} (X : Env R) (c : Cfg)

@[simp] theorem Env_build_cfg : (X.build c).cfg = c := (rfl)
@[simp] theorem Env_build_num : (X.build c).num = X.num c := (rfl)
@[simp] theorem Env_build_xf : (X.build c).xf = X.xf := (rfl)
@[simp] theorem machineEnv_build : machineEnv.build c = build c := (rfl)
@[simp] theorem machineEnv_num : machineEnv.num = num := (rfl)
@[simp] theorem build_cfg : (build c).cfg = c := (rfl)
@[simp] theorem build_num : (build c).num = num c := (rfl)
@[simp] theorem build_xf : (build c).xf = xf := (rfl)

end

section
variable {R : Type} [Zero R] (c : Cfg)

@[simp] theorem Sys_powerOn_cfg : (Sys.powerOn c : Sys R).cfg = c := (rfl)
@[simp] theorem Sys_powerOn_inst : (Sys.powerOn c : Sys R).inst = powerOnInst c := (rfl)
@[simp] theorem Sys_powerOn_port : (Sys.powerOn c : Sys R).port = [] := (rfl)
@[simp] theorem Sys_powerOn_rxin : (Sys.powerOn c : Sys R).rxin = [] := (rfl)
@[simp] theorem Sys_powerOn_ds : (Sys.powerOn c : Sys R).ds = [] := (rfl)
@[simp] theorem Sys_powerOn_out : (Sys.powerOn c : Sys R).out = none := (rfl)
@[simp] theorem Sys_powerOn_stepNo : (Sys.powerOn c : Sys R).stepNo = 0 := (rfl)
@[simp] theorem State_powerOn_toSys : (State.powerOn c).toSys = Sys.powerOn c := (rfl)

end

/-- What controls the block after a command: the response and the step number move, the ports hold nothing. -/
theorem control_finish {R : Type} [Zero R] (s : Sys R) (S : Inst R) (r : ResponseOf R) :
    (s.finish S r).control =
      { ({ s with inst := S } : Sys R).control with
        ds := []
        out := some (r.rc, r.word, r.txout.map List.length, r.listener.map List.length, r.dsUsed)
        stepNo := s.stepNo + 1 } := rfl

end Sys2Proof.Machine
end

