-- ==== Sys2Proof/Laws/Alloc.lean ====
section
/-! SUPPORT. The layout an instance is built with (R124, R271), and what a valid configuration says (R10). -/

namespace Sys2Proof.Machine

theorem layout_valid {c : Cfg} (h : c.valid = true) :
    layout c =
      { p := c.p, d := c.d, dvlen := c.dvlen, dataBin := (List.range c.d).map (dataBin c),
        pilot1 := (List.range c.p).map (pilot1Bin c), pilot2 := (List.range c.p).map (pilot2Bin c) } := by
  simp [layout, alloc, h]

theorem layout_invalid {c : Cfg} (h : c.valid = false) : layout c = emptyLayout := by
  simp [layout, alloc, h]

@[simp] theorem layout_dataBin_length (c : Cfg) : (layout c).dataBin.length = (layout c).d := by
  cases h : c.valid <;> simp [layout_valid, layout_invalid, h, emptyLayout]

@[simp] theorem layout_pilot1_length (c : Cfg) : (layout c).pilot1.length = (layout c).p := by
  cases h : c.valid <;> simp [layout_valid, layout_invalid, h, emptyLayout]

@[simp] theorem layout_pilot2_length (c : Cfg) : (layout c).pilot2.length = (layout c).p := by
  cases h : c.valid <;> simp [layout_valid, layout_invalid, h, emptyLayout]

theorem isPow2_iff (n : Nat) : isPow2 n = true ↔ ∃ k, n = 2 ^ k := by
  unfold isPow2
  rw [decide_eq_true_eq]
  constructor
  · exact fun h => ⟨_, h⟩
  · rintro ⟨k, rfl⟩
    rw [Nat.log2_two_pow]

/-- `VALID(CFG)` as propositions, in the order of R10. -/
structure ValidFacts (c : Cfg) : Prop where
  pow2 : ∃ k, c.n = 2 ^ k
  supported : c.n ∈ c.nSupported
  b_pos : 1 ≤ c.b
  b_dvd : c.b ∣ c.n
  k_ge : 2 ≤ c.k
  min_pos : 1 ≤ c.channelMin
  channels_pos : 1 ≤ c.channels
  max_le : c.channelMax + 1 ≤ c.n / 2
  chunk_pos : 1 ≤ c.chunkData
  whole : c.channels % c.g = 0
  ofs_le : c.pilotOfs ≤ c.chunkData
  p_le : c.p ≤ 4096

theorem valid_iff (c : Cfg) : c.valid = true ↔ ValidFacts c := by
  unfold Cfg.valid
  simp only [Bool.and_eq_true, decide_eq_true_eq, isPow2_iff]
  constructor
  · rintro ⟨⟨⟨⟨⟨h1, h2⟩, ⟨⟨h3, h4⟩, h5⟩⟩, ⟨⟨h6, h7⟩, h8⟩⟩, ⟨⟨h9, h10⟩, h11⟩⟩, h12⟩
    exact ⟨h1, h2, h3, h4, h5, h6, h7, h8, h9, h10, h11, h12⟩
  · intro h
    exact ⟨⟨⟨⟨⟨h.1, h.2⟩, ⟨⟨h.3, h.4⟩, h.5⟩⟩, ⟨⟨h.6, h.7⟩, h.8⟩⟩, ⟨⟨h.9, h.10⟩, h.11⟩⟩, h.12⟩

/-- A valid configuration's symbol is `K` blocks of `B` samples (R6). -/
theorem ValidFacts.k_mul_b {c : Cfg} (h : ValidFacts c) : c.k * c.b = c.n := Nat.div_mul_cancel h.b_dvd

/-- The active range is `P` whole groups (R127). -/
theorem ValidFacts.p_mul_g {c : Cfg} (h : ValidFacts c) : c.p * c.g = c.channels :=
  Nat.div_mul_cancel (Nat.dvd_of_mod_eq_zero h.whole)

end Sys2Proof.Machine
end

