-- ==== Sys2Proof/Laws/Decode.lean ====
section
/-! SUPPORT. The fields of a command word as numbers, and the word of a command. -/

namespace Sys2Proof

theorem opField_eq (w : CmdWord) : opField w = w.toNat / 4096 := by
  have := w.isLt
  simp only [opField, bits]
  omega

theorem argField_eq (w : CmdWord) : argField w = w.toNat % 4096 := by
  simp only [argField, bits]
  omega

theorem opField_lt (w : CmdWord) : opField w < 16 := by
  have := w.isLt
  rw [opField_eq]
  omega

theorem cmdWord_toNat {op arg : Nat} (h1 : op < 16) (h2 : arg < 4096) :
    (cmdWord op arg).toNat = op * 4096 + arg := by
  simp only [cmdWord, BitVec.toNat_ofNat]
  omega

theorem plainCmd_ok {op arg : Nat} {i j : Instr} : plainCmd op arg i = .ok j ↔ arg = 0 ∧ i = j := by
  unfold plainCmd
  split <;> simp [*]

theorem flagCmd_ok {op arg : Nat} {i : Bool → Instr} {j : Instr} :
    flagCmd op arg i = .ok j ↔ arg / 2 = 0 ∧ i (decide (arg = 1)) = j := by
  unfold flagCmd
  split
  · next h => simp [h]
  · next h => simp [h]

end Sys2Proof
end

