-- ==== Sys2Proof/Laws/Memory.lean ====
section
/-! SUPPORT. The laws of a symbol-buffer space: read after write, and that every operation keeps the canonical form. -/

set_option linter.unusedSectionVars false

namespace Sys2Proof.Machine

section
variable {R : Type} [Zero R] [LinearOrder R]

@[simp] theorem Mem.read_nil (a : Nat) : Mem.read ([] : Mem R) a = Cpx.zero := rfl

/-- An index below every listed one reads `(0, 0)`. -/
theorem Mem.read_of_lt (m : Mem R) (a : Nat) (h : ∀ e ∈ m, a < e.1) : Mem.read m a = Cpx.zero := by
  induction m with
  | nil => rfl
  | cons e t ih =>
    have he := h e (by simp)
    simp only [Mem.read]
    rw [if_neg (by omega)]
    exact ih fun x hx => h x (by simp [hx])

/-- What an entry put in front of a space with only higher indices reads as. -/
theorem Mem.read_cons (m : Mem R) (a b : Nat) (v : Cpx R) (h : ∀ e ∈ m, a < e.1) :
    Mem.read (Mem.cons a v m) b = if b = a then v else Mem.read m b := by
  unfold Mem.cons
  split
  · next hv =>
    split
    · next hb => rw [hb, Mem.read_of_lt m a h, hv]
    · rfl
  · simp only [Mem.read, eq_comm]

theorem Mem.mem_cons {m : Mem R} {a : Nat} {v : Cpx R} {e : Nat × Cpx R} (h : e ∈ Mem.cons a v m) :
    e = (a, v) ∨ e ∈ m := by
  unfold Mem.cons at h
  split at h
  · exact .inr h
  · simpa using h

theorem Mem.wf_cons {m : Mem R} {a : Nat} (v : Cpx R) (hm : Mem.wf m) (h : ∀ e ∈ m, a < e.1) :
    Mem.wf (Mem.cons a v m) := by
  unfold Mem.cons
  split
  · exact hm
  · next hv =>
    refine ⟨List.pairwise_cons.2 ⟨fun e he => h e he, hm.1⟩, fun e he => ?_⟩
    rcases List.mem_cons.1 he with rfl | he
    · exact hv
    · exact hm.2 e he

theorem Mem.wf_nil : Mem.wf ([] : Mem R) := ⟨List.Pairwise.nil, by simp⟩

theorem Mem.wf_tail {e : Nat × Cpx R} {t : Mem R} (h : Mem.wf (e :: t)) : Mem.wf t :=
  ⟨(List.pairwise_cons.1 h.1).2, fun x hx => h.2 x (by simp [hx])⟩

theorem Mem.lt_of_wf {e : Nat × Cpx R} {t : Mem R} (h : Mem.wf (e :: t)) : ∀ x ∈ t, e.1 < x.1 :=
  (List.pairwise_cons.1 h.1).1

/-- The entries after a write are the written one and old ones. -/
theorem Mem.mem_write {m : Mem R} {a : Nat} {v : Cpx R} {e : Nat × Cpx R} (h : e ∈ Mem.write m a v) :
    e = (a, v) ∨ e ∈ m := by
  induction m with
  | nil => exact Mem.mem_cons h
  | cons x t ih =>
    obtain ⟨k, w⟩ := x
    simp only [Mem.write] at h
    split at h
    · exact Mem.mem_cons h
    · split at h
      · rcases Mem.mem_cons h with h | h
        · exact .inl h
        · exact .inr (by simp [h])
      · rcases List.mem_cons.1 h with h | h
        · exact .inr (by simp [h])
        · rcases ih h with h | h
          · exact .inl h
          · exact .inr (by simp [h])

/-- A write keeps the canonical form. -/
theorem Mem.wf_write {m : Mem R} (a : Nat) (v : Cpx R) (hm : Mem.wf m) : Mem.wf (Mem.write m a v) := by
  induction m with
  | nil => exact Mem.wf_cons v Mem.wf_nil (by simp)
  | cons x t ih =>
    obtain ⟨k, w⟩ := x
    have ht := Mem.lt_of_wf hm
    simp only at ht
    simp only [Mem.write]
    split
    · next hak =>
      refine Mem.wf_cons v hm fun e he => ?_
      rcases List.mem_cons.1 he with rfl | he
      · exact hak
      · exact lt_trans hak (ht e he)
    · split
      · next hak => exact Mem.wf_cons v (Mem.wf_tail hm) fun e he => by rw [hak]; exact ht e he
      · next h1 h2 =>
        refine ⟨List.pairwise_cons.2 ⟨fun e he => ?_, (ih (Mem.wf_tail hm)).1⟩, fun e he => ?_⟩
        · rcases Mem.mem_write he with rfl | he
          · simp only; omega
          · exact ht e he
        · rcases List.mem_cons.1 he with rfl | he
          · exact hm.2 _ (by simp)
          · exact (ih (Mem.wf_tail hm)).2 e he

/-- Read after write, at the written index and at every other. -/
theorem Mem.read_write {m : Mem R} (a b : Nat) (v : Cpx R) (hm : Mem.wf m) :
    Mem.read (Mem.write m a v) b = if b = a then v else Mem.read m b := by
  induction m with
  | nil => simp [Mem.write, Mem.read_cons]
  | cons x t ih =>
    obtain ⟨k, w⟩ := x
    have ht := Mem.lt_of_wf hm
    simp only at ht
    simp only [Mem.write]
    split
    · next hak =>
      rw [Mem.read_cons _ _ _ _ fun e he => ?_]
      rcases List.mem_cons.1 he with rfl | he
      · exact hak
      · exact lt_trans hak (ht e he)
    · split
      · next hak =>
        subst hak
        rw [Mem.read_cons _ _ _ _ fun e he => ht e he]
        by_cases hb : b = a
        · simp [hb]
        · simp [hb, Mem.read, Ne.symm hb]
      · next h1 h2 =>
        simp only [Mem.read]
        rw [ih (Mem.wf_tail hm)]
        by_cases hk : k = b
        · subst hk; rw [if_pos rfl, if_pos rfl, if_neg (by omega)]
        · simp [hk]

theorem Mem.read_write_same {m : Mem R} (a : Nat) (v : Cpx R) (hm : Mem.wf m) :
    Mem.read (Mem.write m a v) a = v := by simp [Mem.read_write a a v hm]

theorem Mem.read_write_other {m : Mem R} {a b : Nat} (v : Cpx R) (hm : Mem.wf m) (h : b ≠ a) :
    Mem.read (Mem.write m a v) b = Mem.read m b := by simp [Mem.read_write a b v hm, h]

theorem Mem.mem_ofListFrom {l : List (Cpx R)} : ∀ {i : Nat} {e : Nat × Cpx R},
    e ∈ Mem.ofListFrom i l → i ≤ e.1 ∧ e.1 < i + l.length := by
  induction l with
  | nil => intro i e h; simp [Mem.ofListFrom] at h
  | cons v t ih =>
    intro i e h
    rcases Mem.mem_cons h with rfl | h
    · simp
    · have := ih h
      simp only [List.length_cons]
      omega

theorem Mem.wf_ofListFrom (l : List (Cpx R)) : ∀ i : Nat, Mem.wf (Mem.ofListFrom i l) := by
  induction l with
  | nil => intro i; exact Mem.wf_nil
  | cons v t ih =>
    intro i
    exact Mem.wf_cons v (ih (i + 1)) fun e he => (Mem.mem_ofListFrom he).1

theorem Mem.read_ofListFrom (l : List (Cpx R)) : ∀ i a : Nat, i ≤ a →
    Mem.read (Mem.ofListFrom i l) a = l.getD (a - i) Cpx.zero := by
  induction l with
  | nil => intro i a _; simp [Mem.ofListFrom]
  | cons v t ih =>
    intro i a h
    rw [Mem.ofListFrom, Mem.read_cons _ _ _ _ fun e he => (Mem.mem_ofListFrom he).1]
    by_cases ha : a = i
    · simp [ha]
    · rw [if_neg ha, ih (i + 1) a (by omega)]
      obtain ⟨k, rfl⟩ : ∃ k, a = i + 1 + k := ⟨a - (i + 1), by omega⟩
      have h1 : i + 1 + k - (i + 1) = k := by omega
      have h2 : i + 1 + k - i = k + 1 := by omega
      rw [h1, h2, List.getD_cons_succ]

/-- Overwriting a whole space gives a canonical one. -/
theorem Mem.wf_ofList (l : List (Cpx R)) : Mem.wf (Mem.ofList l) := Mem.wf_ofListFrom l 0

/-- A whole space overwritten with `l` reads as `l`, and `(0, 0)` beyond it. -/
@[simp] theorem Mem.read_ofList (l : List (Cpx R)) (a : Nat) : Mem.read (Mem.ofList l) a = l.getD a Cpx.zero :=
  Mem.read_ofListFrom l 0 a (Nat.zero_le a)

theorem Mem.lt_of_mem_ofList {l : List (Cpx R)} {e : Nat × Cpx R} (h : e ∈ Mem.ofList l) : e.1 < l.length := by
  simpa using (Mem.mem_ofListFrom h).2

theorem Mem.lt_of_mem_write {m : Mem R} {a n : Nat} {v : Cpx R} (h : ∀ e ∈ m, e.1 < n) (ha : a < n) :
    ∀ e ∈ Mem.write m a v, e.1 < n := by
  intro e he
  rcases Mem.mem_write he with rfl | he
  · exact ha
  · exact h e he

@[simp] theorem Mem.toVec_length (m : Mem R) (n : Nat) : (Mem.toVec m n).length = n := by simp [Mem.toVec]

theorem Mem.toVec_getD (m : Mem R) {n i : Nat} (h : i < n) : (Mem.toVec m n).getD i Cpx.zero = Mem.read m i := by
  simp [Mem.toVec, h]

/-- Two canonical spaces that read alike everywhere are equal data. -/
theorem Mem.ext_of_wf {m m' : Mem R} (hm : Mem.wf m) (hm' : Mem.wf m')
    (h : ∀ a, Mem.read m a = Mem.read m' a) : m = m' := by
  induction m generalizing m' with
  | nil =>
    cases m' with
    | nil => rfl
    | cons e t =>
      have h1 := h e.1
      simp only [Mem.read, if_true] at h1
      exact absurd h1.symm (hm'.2 e (by simp))
  | cons e t ih =>
    cases m' with
    | nil =>
      have h1 := h e.1
      simp only [Mem.read, if_true] at h1
      exact absurd h1 (hm.2 e (by simp))
    | cons e' t' =>
      have ht := Mem.lt_of_wf hm
      have ht' := Mem.lt_of_wf hm'
      have hk : e.1 = e'.1 := by
        rcases lt_trichotomy e.1 e'.1 with hlt | heq | hgt
        · have h1 := h e.1
          rw [Mem.read_of_lt (e' :: t') e.1 (by
            intro x hx
            rcases List.mem_cons.1 hx with rfl | hx
            · exact hlt
            · exact lt_trans hlt (ht' x hx))] at h1
          simp only [Mem.read, if_true] at h1
          exact absurd h1 (hm.2 e (by simp))
        · exact heq
        · have h1 := h e'.1
          rw [Mem.read_of_lt (e :: t) e'.1 (by
            intro x hx
            rcases List.mem_cons.1 hx with rfl | hx
            · exact hgt
            · exact lt_trans hgt (ht x hx))] at h1
          simp only [Mem.read, if_true] at h1
          exact absurd h1.symm (hm'.2 e' (by simp))
      have hv : e.2 = e'.2 := by
        have h1 := h e.1
        simpa [Mem.read, hk] using h1
      have htail : t = t' := by
        refine ih (Mem.wf_tail hm) (Mem.wf_tail hm') fun a => ?_
        have h1 := h a
        simp only [Mem.read] at h1
        by_cases ha : e.1 = a
        · rw [Mem.read_of_lt t a (by intro x hx; rw [← ha]; exact ht x hx),
            Mem.read_of_lt t' a (by intro x hx; rw [← ha, hk]; exact ht' x hx)]
        · rwa [if_neg ha, if_neg (by rw [← hk]; exact ha)] at h1
      rw [htail, Prod.ext hk hv]

end

end Sys2Proof.Machine
end

