-- ==== Sys2Proof/Laws/Numerics.lean ====
section
/-! SUPPORT. What the numerics of the machine satisfy by construction (R8), and the vectors of the transforms (R9). -/

set_option linter.unusedSectionVars false

namespace Sys2Proof.Machine

section
variable {R : Type} [Zero R] [One R] [Neg R] [LinearOrder R]

theorem clamp_ge {lo hi : R} (x : R) (h : lo ≤ hi) : lo ≤ clamp lo hi x := by
  unfold clamp
  split
  · exact le_rfl
  · next hx =>
    split
    · exact h
    · exact not_lt.1 hx

theorem clamp_le {lo hi : R} (x : R) (h : lo ≤ hi) : clamp lo hi x ≤ hi := by
  unfold clamp
  split
  · exact h
  · split
    · exact le_rfl
    · next hx => exact not_lt.1 hx

/-- A value inside the bounds is not moved. -/
theorem clamp_eq {lo hi x : R} (h1 : lo ≤ x) (h2 : x ≤ hi) : clamp lo hi x = x := by
  simp [clamp, not_lt.2 h1, not_lt.2 h2]

@[simp] theorem fit_length (n : Nat) (l : List (Cpx R)) : (fit n l).length = n := by simp [fit]

theorem fit_getD (n i : Nat) (l : List (Cpx R)) :
    (fit n l).getD i Cpx.zero = if i < n then l.getD i Cpx.zero else Cpx.zero := by
  by_cases h : i < n <;> simp [fit, h]

/-- A vector of the right length is not changed. -/
theorem fit_of_length {n : Nat} {l : List (Cpx R)} (h : l.length = n) : fit n l = l := by
  apply List.ext_getElem
  · simp [h]
  · intro i h1 h2
    simp [fit, h2]

@[simp] theorem inverse_length (E : Build R) (X : List (Cpx R)) : (inverse E X).length = E.cfg.n := by
  simp [inverse]

@[simp] theorem forward_length (E : Build R) (x : List (Cpx R)) : (forward E x).length = E.cfg.n := by
  simp [forward]

end

theorem num_halfPi_ge (c : Cfg) : 157 / 100 ≤ (num c).halfPi := clamp_ge _ (by norm_num)

theorem num_halfPi_le (c : Cfg) : (num c).halfPi ≤ 158 / 100 := clamp_le _ (by norm_num)

theorem num_pi_eq (c : Cfg) : (num c).pi = (num c).halfPi + (num c).halfPi := rfl

theorem num_twoPi_eq (c : Cfg) : (num c).twoPi = (num c).pi + (num c).pi := rfl

theorem num_pi_pos (c : Cfg) : 0 < (num c).pi := by
  have := num_halfPi_ge c
  rw [num_pi_eq]
  linarith

/-- `ATAN2` answers an angle between `-PI` and `PI` (R8), whatever its free value is. -/
theorem num_atan2_range (c : Cfg) (y x : Rat) :
    -(num c).pi ≤ (num c).atan2 y x ∧ (num c).atan2 y x ≤ (num c).pi := by
  have h : -(num c).pi ≤ (num c).pi := by have := num_pi_pos c; linarith
  exact ⟨clamp_ge _ h, clamp_le _ h⟩

theorem angle_range (c : Cfg) (z : Cpx Rat) : -(num c).pi ≤ angle (num c) z ∧ angle (num c) z ≤ (num c).pi :=
  num_atan2_range c z.im z.re

theorem refNum_pi (z : ℝ) : (refNum z).pi = Real.pi := add_halves Real.pi

theorem refNum_twoPi (z : ℝ) : (refNum z).twoPi = 2 * Real.pi := by rw [Num.twoPi, refNum_pi, two_mul]

/-- The reference `ATAN2` answers an angle between `-PI` and `PI` (R8), when the open value does. -/
theorem refNum_atan2_range {z : ℝ} (h1 : -Real.pi ≤ z) (h2 : z ≤ Real.pi) (y x : ℝ) :
    -(refNum z).pi ≤ (refNum z).atan2 y x ∧ (refNum z).atan2 y x ≤ (refNum z).pi := by
  rw [refNum_pi]
  simp only [refNum]
  split
  · exact ⟨h1, h2⟩
  · exact ⟨(Complex.neg_pi_lt_arg _).le, Complex.arg_le_pi _⟩

end Sys2Proof.Machine
end

