-- ==== Sys2Proof/Laws/Encoder.lean ====
section
/-! SUPPORT. The pieces of the encoder, said once: a bin of the spectrum after one placement (R126), lengths, and ranges. -/

set_option linter.unusedSectionVars false

namespace Sys2Proof.Machine

theorem bumpCounter_lt (c : Cfg) (n : Nat) : bumpCounter c n < 2 ^ c.cntW := Nat.mod_lt _ (Nat.two_pow_pos _)

theorem advanceCodes_getD (offset : Int) (dv : List Byte) (codes : List PhaseCode) {d : Nat} (h : d < codes.length) :
    (advanceCodes offset dv codes).getD d 0 = newCode offset (codes.getD d 0) (dvGet dv d) := by
  simp [advanceCodes, h]

section
variable {R : Type} [Zero R] [One R] [Neg R] [LinearOrder R]

theorem putBin_length (n : Nat) (X : List (Cpx R)) (i : Nat) (v : Cpx R) : (putBin n X i v).length = X.length := by
  simp [putBin]

/-- One placement writes its bin and the mirror bin, and no other. -/
theorem putBin_getD (n : Nat) (X : List (Cpx R)) (i j : Nat) (v : Cpx R) (hi : i < X.length)
    (hm : n - i < X.length) :
    (putBin n X i v).getD j Cpx.zero =
      if j = n - i then v.conj else if j = i then v else X.getD j Cpx.zero := by
  unfold putBin
  by_cases h1 : j = n - i
  · subst h1; simp [hm]
  · rw [if_neg h1]
    by_cases h2 : j = i
    · subst h2; simp [List.getD_eq_getElem?_getD, Ne.symm h1, hi]
    · simp [h2, List.getD_eq_getElem?_getD, Ne.symm h1, Ne.symm h2]

theorem sentCodes_length (E : Build R) (S : Inst R) : (sentCodes E S).length = S.txCode.length := by
  unfold sentCodes
  split <;> simp [advanceCodes]

/-- Reading a whole space back into a vector gives the list it was overwritten with. -/
theorem Mem.toVec_ofList (l : List (Cpx R)) : Mem.toVec (Mem.ofList l) l.length = l := by
  apply List.ext_getElem (by simp)
  intro i h1 h2
  have := Mem.read_ofListFrom l 0 i (Nat.zero_le i)
  simp [Mem.toVec, Mem.ofList, this, h2]

end

end Sys2Proof.Machine
end

