-- ==== Sys2Proof/Laws/Operands.lean ====
section
/-! SUPPORT. The shared operations over operands, said once: writing a field of a Data Vector (R68), and the ports' blocks
when the port carries a whole one (R70, R201, R223). -/

namespace Sys2Proof.Machine

@[simp] theorem dvPut_length (dv : List Byte) (d : Nat) (v : Byte) : (dvPut dv d v).length = dv.length := by
  simp [dvPut]

/-- `DVPUT` rewrites the byte its field lies in and leaves every other byte. -/
theorem dvPut_getD (dv : List Byte) (d j : Nat) (v : Byte) (h : d / 4 < dv.length) :
    (dvPut dv d v).getD j 0 =
      if j = d / 4 then
        (dv.getD (d / 4) 0 &&& ~~~((3 : Byte) <<< fieldShift d)) ||| ((v &&& 3) <<< fieldShift d)
      else dv.getD j 0 := by
  unfold dvPut
  by_cases hj : j = d / 4
  · subst hj; simp [h]
  · simp [hj, List.getD_eq_getElem?_getD, Ne.symm hj]

/-- A whole Data Vector on the port is read as it is. -/
theorem readDatasource_whole (k n : Nat) (l : List Byte) (h : l.length = n) : readDatasource k n l = l := by
  apply List.ext_getElem (by simp [readDatasource, h])
  intro i h1 h2
  simp [readDatasource, h2]

section
variable {R : Type}

/-- A whole block on the port is read as it is. -/
theorem readRxin_whole (free : Nat → Nat → R) (k b : Nat) (l : List R) (h : l.length = b) :
    readRxin free k b l = l := by
  apply List.ext_getElem (by simp [readRxin, h])
  intro i h1 h2
  simp [readRxin, h2]

variable [Zero R] (X : Env R) {s : Sys R}

/-- A starved tick pushes zeros, whatever is on the port. -/
@[simp] theorem rxBlock_starved : rxBlock X false s = silence s.cfg.b := rfl

/-- A tick with a whole block pushes that block. -/
theorem rxBlock_whole (h : s.rxin.length = s.cfg.b) : rxBlock X true s = s.rxin :=
  readRxin_whole X.undrivenSample s.stepNo s.cfg.b s.rxin h

end

end Sys2Proof.Machine
end

