-- ==== Sys2Proof/Laws/Scheduler.lean ====
section
/-! SUPPORT. What the loop of `RX.PUSH` does as a whole (R197), and the lengths of the blocks of the ports (R70). -/

set_option linter.unusedSectionVars false

namespace Sys2Proof.Machine

@[simp] theorem readDatasource_length (k n : Nat) (l : List Byte) : (readDatasource k n l).length = n := by
  simp [readDatasource]

section
variable {R : Type} [Zero R] [One R] [Add R] [Sub R] [Neg R] [Mul R] [LinearOrder R]

@[simp] theorem readRxin_length (free : Nat → Nat → R) (k b : Nat) (l : List R) :
    (readRxin free k b l).length = b := by simp [readRxin]

@[simp] theorem silence_length (b : Nat) : (silence b : List R).length = b := by simp [silence]

@[simp] theorem rxBlock_length (X : Env R) (v : Bool) (s : Sys R) : (rxBlock X v s).length = s.cfg.b := by
  cases v <;> simp [rxBlock]


@[simp] theorem txBlock_length (E : Build R) (S : Inst R) : (txBlock E S).length = E.cfg.b := by simp [txBlock]

/-- All samples of a block stored one after another, with no decode in between. -/
def storeBlock (S : Inst R) (blk : List R) : Inst R := blk.foldl storeSample S

@[simp] theorem storeBlock_nil (S : Inst R) : storeBlock S [] = S := rfl

theorem storeBlock_cons (S : Inst R) (x : R) (t : List R) :
    storeBlock S (x :: t) = storeBlock (storeSample S x) t := rfl

@[simp] theorem storeBlock_rxIdx (blk : List R) : ∀ S : Inst R,
    (storeBlock S blk).rxIdx = S.rxIdx + blk.length := by
  induction blk with
  | nil => intro S; rfl
  | cons x t ih => intro S; rw [storeBlock_cons, ih]; simp; omega

/-- Storing a block touches the receive buffer and its index only. -/
theorem storeBlock_eq (blk : List R) : ∀ S : Inst R,
    storeBlock S blk = { S with rxBuf := (storeBlock S blk).rxBuf, rxIdx := S.rxIdx + blk.length } := by
  induction blk with
  | nil => intro S; rfl
  | cons x t ih =>
    intro S
    rw [storeBlock_cons, ih]
    simp [storeSample]
    omega

theorem storeBlock_wf (blk : List R) : ∀ S : Inst R, Mem.wf S.rxBuf → Mem.wf (storeBlock S blk).rxBuf := by
  induction blk with
  | nil => exact fun S h => h
  | cons x t ih => exact fun S h => ih _ (Mem.wf_write _ _ h)

/-- What every index of the receive buffer reads after a block was stored. -/
theorem storeBlock_read (blk : List R) : ∀ (S : Inst R) (a : Nat), Mem.wf S.rxBuf →
    Mem.read (storeBlock S blk).rxBuf a =
      if S.rxIdx ≤ a ∧ a < S.rxIdx + blk.length then Cpx.ofReal (blk.getD (a - S.rxIdx) 0)
      else Mem.read S.rxBuf a := by
  induction blk with
  | nil => intro S a _; rw [if_neg (by simp)]; rfl
  | cons x t ih =>
    intro S a h
    rw [storeBlock_cons, ih _ _ (Mem.wf_write _ _ h)]
    simp only [storeSample_rxIdx, storeSample_rxBuf, List.length_cons]
    rw [Mem.read_write _ _ _ h]
    by_cases ha : a = S.rxIdx
    · subst ha
      rw [if_neg (by omega), if_pos rfl, if_pos (by omega), Nat.sub_self]
      rfl
    · by_cases hr : S.rxIdx + 1 ≤ a ∧ a < S.rxIdx + 1 + t.length
      · rw [if_pos hr, if_pos (by omega)]
        obtain ⟨k, rfl⟩ : ∃ k, a = S.rxIdx + 1 + k := ⟨a - (S.rxIdx + 1), by omega⟩
        have h1 : S.rxIdx + 1 + k - (S.rxIdx + 1) = k := by omega
        have h2 : S.rxIdx + 1 + k - S.rxIdx = k + 1 := by omega
        rw [h1, h2, List.getD_cons_succ]
      · rw [if_neg hr, if_neg ha, if_neg (by omega)]

theorem storeBlock_lt {n : Nat} (blk : List R) : ∀ S : Inst R, (∀ e ∈ S.rxBuf, e.1 < n) →
    S.rxIdx + blk.length ≤ n → ∀ e ∈ (storeBlock S blk).rxBuf, e.1 < n := by
  induction blk with
  | nil => exact fun S h _ => h
  | cons x t ih =>
    intro S h hn
    simp only [List.length_cons] at hn
    exact ih _ (Mem.lt_of_mem_write h (by omega)) (by simp only [storeSample_rxIdx]; omega)

theorem pushSample_foldl_fill (E : Build R) (blk : List R) : ∀ (S : Inst R) (ev : List (List Byte)),
    S.rxIdx + blk.length < E.cfg.n → blk.foldl (pushSample E) (S, ev) = (storeBlock S blk, ev) := by
  induction blk with
  | nil => intro S ev _; rfl
  | cons x t ih =>
    intro S ev h
    simp only [List.length_cons] at h
    have h1 : pushSample E (S, ev) x = (storeSample S x, ev) := by
      simp only [pushSample, storeSample_rxIdx]
      rw [if_neg (by omega)]
    rw [List.foldl_cons, h1, ih _ _ (by simp only [storeSample_rxIdx]; omega), storeBlock_cons]

/-- A block that does not fill the buffer is only stored. -/
theorem rxPush_fill (E : Build R) (blk : List R) (S : Inst R) (h : S.rxIdx + blk.length < E.cfg.n) :
    rxPush E blk S = (storeBlock S blk, []) := pushSample_foldl_fill E blk S [] h

theorem pushSample_foldl_decode (E : Build R) (blk : List R) : ∀ (S : Inst R) (ev : List (List Byte)),
    blk ≠ [] → S.rxIdx + blk.length = E.cfg.n →
    blk.foldl (pushSample E) (S, ev) =
      ({ decSym E (storeBlock S blk) with rxIdx := 0 }, ev ++ decEvents E (storeBlock S blk)) := by
  induction blk with
  | nil => intro S ev h; exact absurd rfl h
  | cons x t ih =>
    intro S ev _ h
    simp only [List.length_cons] at h
    rw [List.foldl_cons]
    cases t with
    | nil =>
      simp only [List.length_nil] at h
      simp only [List.foldl_nil, pushSample, storeSample_rxIdx]
      rw [if_pos (by omega)]
      rfl
    | cons y u =>
      simp only [List.length_cons] at h
      have h1 : pushSample E (S, ev) x = (storeSample S x, ev) := by
        simp only [pushSample, storeSample_rxIdx]
        rw [if_neg (by omega)]
      rw [h1, ih _ _ (by simp) (by simp only [storeSample_rxIdx, List.length_cons]; omega), storeBlock_cons S x]

/-- A block that fills the buffer exactly is stored, then decoded, and the index starts over (R197, R198). -/
theorem rxPush_decode (E : Build R) (blk : List R) (S : Inst R) (h0 : blk ≠ [])
    (h : S.rxIdx + blk.length = E.cfg.n) :
    rxPush E blk S = ({ decSym E (storeBlock S blk) with rxIdx := 0 }, decEvents E (storeBlock S blk)) := by
  rw [rxPush, pushSample_foldl_decode E blk S [] h0 h, List.nil_append]

/-- The loop touches the receive half only, and never clears `rx_first_done`. -/
theorem pushSample_foldl_tx (E : Build R) (blk : List R) : ∀ acc : Inst R × List (List Byte),
    let S := (blk.foldl (pushSample E) acc).1
    S.txCode = acc.1.txCode ∧ S.txSeg = acc.1.txSeg ∧ S.txDv = acc.1.txDv ∧ S.txDvValid = acc.1.txDvValid ∧
    S.txBuf = acc.1.txBuf ∧ S.txSymCnt = acc.1.txSymCnt ∧ S.active = acc.1.active ∧
    (acc.1.rxFirstDone = true → S.rxFirstDone = true) := by
  induction blk with
  | nil => exact fun _ => ⟨rfl, rfl, rfl, rfl, rfl, rfl, rfl, id⟩
  | cons x t ih =>
    intro acc
    obtain ⟨h1, h2, h3, h4, h5, h6, h7, h8⟩ := ih (pushSample E acc x)
    rw [List.foldl_cons]
    by_cases hn : (storeSample acc.1 x).rxIdx = E.cfg.n
    · simp only [pushSample, if_pos hn] at *
      exact ⟨h1, h2, h3, h4, h5, h6, h7, fun _ => h8 rfl⟩
    · simp only [pushSample, if_neg hn] at *
      exact ⟨h1, h2, h3, h4, h5, h6, h7, h8⟩

end

end Sys2Proof.Machine
end

