-- ==== Sys2Proof/Machine/Rounded.lean ====
section
/-! DEFINITION. Concrete number formats (R8, U11): the block with every addition, subtraction and multiplication rounded, and
the rounding of the format the spec names for a concrete build, IEEE 754 binary32 to nearest even. The machine's `step`
does not use this file. -/

namespace Sys2Proof.Machine

/-- One command step of the block when every operation's exact result is rounded by `rnd`. Negation is exact and the order
is that of the values (R8). -/
def Sys.stepRounded (rnd : Rat → Rat) (X : Env Rat) (s : Sys Rat) : Sys Rat :=
  letI : Add Rat := ⟨fun x y => rnd (x + y)⟩
  letI : Sub Rat := ⟨fun x y => rnd (x - y)⟩
  letI : Mul Rat := ⟨fun x y => rnd (x * y)⟩
  Sys.step X s

/-- The integer nearest to `q`, the even one of two that are equally near. -/
def roundHalfEven (q : Rat) : Int :=
  let f := q.floor
  if q - f < 1 / 2 then f
  else if 1 / 2 < q - f then f + 1
  else if f % 2 = 0 then f else f + 1

/-- The exponent `e` with `2^e ≤ x < 2^(e+1)`, for a positive `x`. -/
def binaryExponent (x : Rat) : Int :=
  let e : Int := (Nat.log2 x.num.natAbs : Int) - Nat.log2 x.den
  if x < (2 : Rat) ^ e then e - 1 else if (2 : Rat) ^ (e + 1) ≤ x then e + 1 else e

/-- Rounding to binary32: 24 significant bits, no exponent below -126, ties to even. A magnitude beyond the format's range
keeps its 24 bits: infinities and NaN are outside the carrier (log 3). -/
def roundBinary32 (x : Rat) : Rat :=
  if x = 0 then 0
  else
    let e := max (binaryExponent |x|) (-126)
    let ulp := (2 : Rat) ^ (e - 23)
    roundHalfEven (x / ulp) * ulp

/-- One command step of a build in binary32; its constants, `ATAN2` and transforms are those of `X`. -/
def Sys.stepBinary32 (X : Env Rat) (s : Sys Rat) : Sys Rat := s.stepRounded roundBinary32 X

end Sys2Proof.Machine
end

