-- ==== Sys2Proof/Laws/Exec.lean ====
section
/-! SUPPORT. What each command and the step answer, said once: later proofs cite these and unfold nothing. The lemmas about
`Sys.exec` and `Sys.step` hold over any numerics; `exec_eq` and `step_eq` carry them to the machine. -/

set_option linter.unusedSectionVars false

namespace Sys2Proof.Machine

section
variable {R : Type} [Zero R] [One R] [Add R] [Sub R] [Neg R] [Mul R] [LinearOrder R] (X : Env R) {s t : Sys R}

@[simp] theorem Sys_exec_nop : s.exec X .nop = s.finish s.inst { rc := .ok } := rfl

@[simp] theorem Sys_exec_rst :
    s.exec X .rst = s.finish (rstInst X s.cfg) { rc := if s.cfg.valid then .ok else .inactive } := rfl

@[simp] theorem Sys_exec_rdsts : s.exec X .rdsts = answerWord (statusWord s.cfg s.inst) s := rfl

@[simp] theorem Sys_exec_rdtxc : s.exec X .rdtxc = answerWord (counterWord s.inst.txSymCnt) s := rfl

@[simp] theorem Sys_exec_rdrxc : s.exec X .rdrxc = answerWord (counterWord s.inst.rxSymCnt) s := rfl

@[simp] theorem Sys_exec_reserved (x : Nat) : s.exec X (.reserved x) = badCommand s := rfl

theorem Sys_exec_txtick (a : Bool) :
    s.exec X (.txtick a) =
      if s.inst.active = false then raise .inactive s else if a = false then raise .txNoBuffer s
      else runTxStep X s := rfl

theorem Sys_exec_rxtick (v : Bool) :
    s.exec X (.rxtick v) = if s.inst.active = false then raise .inactive s else runRxPush X v s := rfl

theorem Sys_exec_rdplt (p : Nat) :
    s.exec X (.rdplt p) =
      if (layout s.cfg).p ≤ p then raise .badArgument s
      else s.finish s.inst { rc := .ok, value := s.inst.pltAvg.getD p 0 } := rfl

/-- The three ways of a transmit tick (R222). -/
theorem Sys_txtick_cases (a : Bool) :
    (s.inst.active = false ∧ s.exec X (.txtick a) = raise .inactive s) ∨
    (s.inst.active = true ∧ a = false ∧ s.exec X (.txtick a) = raise .txNoBuffer s) ∨
    (s.inst.active = true ∧ a = true ∧ s.exec X (.txtick a) = runTxStep X s) := by
  rw [Sys_exec_txtick]
  cases s.inst.active <;> cases a <;> simp

/-- The two ways of a receive tick (R223). -/
theorem Sys_rxtick_cases (v : Bool) :
    (s.inst.active = false ∧ s.exec X (.rxtick v) = raise .inactive s) ∨
    (s.inst.active = true ∧ s.exec X (.rxtick v) = runRxPush X v s) := by
  rw [Sys_exec_rxtick]
  cases s.inst.active <;> simp

/-- The two ways of `RDPLT` (R227). -/
theorem Sys_rdplt_cases (p : Nat) :
    ((layout s.cfg).p ≤ p ∧ s.exec X (.rdplt p) = raise .badArgument s) ∨
    (p < (layout s.cfg).p ∧
      s.exec X (.rdplt p) = s.finish s.inst { rc := .ok, value := s.inst.pltAvg.getD p 0 }) := by
  rw [Sys_exec_rdplt]
  by_cases h : (layout s.cfg).p ≤ p
  · exact .inl ⟨h, if_pos h⟩
  · exact .inr ⟨by omega, if_neg h⟩

theorem Sys_step_idle (h : s.port = []) : s.step X = s := by simp [Sys.step, fetch, h]

theorem Sys_step_word {c : CommandOf R} {rest : List (CommandOf R)} {i : Instr} (h : s.port = c :: rest)
    (hd : decode c.word = .ok i) : s.step X = (s.accept c rest).exec X i := by simp [Sys.step, fetch, h, hd]

theorem Sys_step_rejected {c : CommandOf R} {rest : List (CommandOf R)} {e : Reject} (h : s.port = c :: rest)
    (hd : decode c.word = .error e) : s.step X = badCommand (s.accept c rest) := by simp [Sys.step, fetch, h, hd]

/-- All a step can do. -/
theorem Sys_step_cases :
    (s.port = [] ∧ s.step X = s) ∨
    (∃ c rest i, s.port = c :: rest ∧ decode c.word = .ok i ∧ s.step X = (s.accept c rest).exec X i) ∨
    (∃ c rest e, s.port = c :: rest ∧ decode c.word = .error e ∧ s.step X = badCommand (s.accept c rest)) := by
  cases hp : s.port with
  | nil => exact .inl ⟨rfl, Sys_step_idle X hp⟩
  | cons c rest =>
    cases hd : decode c.word with
    | ok i => exact .inr (.inl ⟨c, rest, i, rfl, hd, Sys_step_word X hp hd⟩)
    | error e => exact .inr (.inr ⟨c, rest, e, rfl, hd, Sys_step_rejected X hp hd⟩)

end

/-! ## Rounded formats -/

/-- The rounded step is the block's step at the rounded operations and at nothing else. -/
theorem Sys_stepRounded_eq (rnd : Rat → Rat) (X : Env Rat) (s : Sys Rat) :
    s.stepRounded rnd X = @Sys.step Rat _ _ ⟨fun x y => rnd (x + y)⟩ ⟨fun x y => rnd (x - y)⟩ _
      ⟨fun x y => rnd (x * y)⟩ _ X s := rfl

/-- A format that rounds nothing is the exact block. -/
theorem Sys_stepRounded_id (X : Env Rat) (s : Sys Rat) : s.stepRounded id X = s.step X := rfl

/-! ## The machine is the block at its own numerics -/

theorem exec_eq (i : Instr) (s : State) : exec i s = .next { toSys := s.toSys.exec machineEnv i } := by
  cases i <;> rfl

theorem exec_next_iff {i : Instr} {s t : State} : exec i s = .next t ↔ t.toSys = s.toSys.exec machineEnv i := by
  rw [exec_eq]
  constructor
  · intro h
    cases h
    rfl
  · intro h
    cases t
    cases h
    rfl

theorem exec_txtick_inactive {s : State} (a : Bool) (h : s.inst.active = false) :
    exec (.txtick a) s = .next { toSys := raise .inactive s.toSys } := by
  rw [exec_eq, Sys_exec_txtick, if_pos h]

theorem exec_txtick_noBuffer {s : State} (h : s.inst.active = true) :
    exec (.txtick false) s = .next { toSys := raise .txNoBuffer s.toSys } := by
  rw [exec_eq, Sys_exec_txtick, if_neg (by rw [h]; decide), if_pos rfl]

theorem exec_txtick_run {s : State} (h : s.inst.active = true) :
    exec (.txtick true) s = .next { toSys := runTxStep machineEnv s.toSys } := by
  rw [exec_eq, Sys_exec_txtick, if_neg (by rw [h]; decide), if_neg (by decide)]

theorem exec_rxtick_inactive {s : State} (v : Bool) (h : s.inst.active = false) :
    exec (.rxtick v) s = .next { toSys := raise .inactive s.toSys } := by
  rw [exec_eq, Sys_exec_rxtick, if_pos h]

theorem exec_rxtick_run {s : State} (v : Bool) (h : s.inst.active = true) :
    exec (.rxtick v) s = .next { toSys := runRxPush machineEnv v s.toSys } := by
  rw [exec_eq, Sys_exec_rxtick, if_neg (by rw [h]; decide)]

theorem step_idle {s : State} (h : s.port = []) : step s = .next s := by simp [step, fetch, h]

theorem step_word {s : State} {c : Command} {rest : List Command} {i : Instr} (h : s.port = c :: rest)
    (hd : decode c.word = .ok i) : step s = exec i { toSys := s.toSys.accept c rest } := by
  simp [step, fetch, h, hd]

theorem step_rejected {s : State} {c : Command} {rest : List Command} {e : Reject} (h : s.port = c :: rest)
    (hd : decode c.word = .error e) : step s = .next { toSys := badCommand (s.toSys.accept c rest) } := by
  simp [step, fetch, h, hd]

/-- All a step of the machine can do. -/
theorem step_cases {s t : State} (h : step s = .next t) :
    (s.port = [] ∧ t = s) ∨
    (∃ c rest i, s.port = c :: rest ∧ decode c.word = .ok i ∧
      t.toSys = (s.toSys.accept c rest).exec machineEnv i) ∨
    (∃ c rest e, s.port = c :: rest ∧ decode c.word = .error e ∧
      t.toSys = badCommand (s.toSys.accept c rest)) := by
  cases hp : s.port with
  | nil =>
    rw [step_idle hp] at h
    injection h with h
    exact .inl ⟨rfl, h.symm⟩
  | cons c rest =>
    cases hd : decode c.word with
    | ok i =>
      rw [step_word hp hd, exec_next_iff] at h
      exact .inr (.inl ⟨c, rest, i, rfl, hd, h⟩)
    | error e =>
      rw [step_rejected hp hd] at h
      cases h
      exact .inr (.inr ⟨c, rest, e, rfl, hd, rfl⟩)

/-- A run goes on after a step that answered a next state. -/
theorem run_succ {s t : State} (k : Nat) (h : step s = .next t) :
    Sys2Proof.core.run (k + 1) s = Sys2Proof.core.run k t := by
  have h' : Sys2Proof.core.step s = .next t := h
  simp only [Host.Core.run, h']

@[simp] theorem run_zero (s : State) : Sys2Proof.core.run 0 s = .next s := rfl

end Sys2Proof.Machine
end

