-- ==== Sys2Proof/Laws/PerInstr.lean ====
section
/-! SUPPORT. A family of statements made per command: its encoding lies in its row of spec/opcode_table.json, that is, it
has the row's match bits under the row's mask (R91, R93, R94). -/

namespace Sys2Proof.Laws

open Sys2Proof

/-- Mask and match of the command's row in spec/opcode_table.json. -/
def tableRow : Instr → CmdWord × CmdWord
  | .nop => (0xFFFF, 0x0000)
  | .rst => (0xFFFF, 0x1000)
  | .txtick _ => (0xFFFE, 0x2000)
  | .rxtick _ => (0xFFFE, 0x3000)
  | .rdsts => (0xFFFF, 0x4000)
  | .rdtxc => (0xFFFF, 0x5000)
  | .rdrxc => (0xFFFF, 0x6000)
  | .rdplt _ => (0xF000, 0x7000)
  | .reserved _ => (0x8000, 0x8000)

/-- The encoding of a well-formed command lies in the command's row. -/
def EncodesInRow.Statement (i : Instr) : Prop :=
  i.wf = true → encode i &&& (tableRow i).1 = (tableRow i).2

theorem EncodesInRow.nop : EncodesInRow.Statement .nop := fun _ => by decide

theorem EncodesInRow.rst : EncodesInRow.Statement .rst := fun _ => by decide

theorem EncodesInRow.txtick (a : Bool) : EncodesInRow.Statement (.txtick a) := fun _ => by cases a <;> decide

theorem EncodesInRow.rxtick (v : Bool) : EncodesInRow.Statement (.rxtick v) := fun _ => by cases v <;> decide

theorem EncodesInRow.rdsts : EncodesInRow.Statement .rdsts := fun _ => by decide

theorem EncodesInRow.rdtxc : EncodesInRow.Statement .rdtxc := fun _ => by decide

theorem EncodesInRow.rdrxc : EncodesInRow.Statement .rdrxc := fun _ => by decide

/-- A command word as operation code and operand side by side. -/
theorem cmdWord_append {op arg : Nat} (h1 : op < 16) (h2 : arg < 4096) :
    cmdWord op arg = BitVec.ofNat 4 op ++ BitVec.ofNat 12 arg := by
  apply BitVec.eq_of_toNat_eq
  rw [cmdWord_toNat h1 h2, BitVec.toNat_append, BitVec.toNat_ofNat, BitVec.toNat_ofNat,
    Nat.mod_eq_of_lt (by omega : op < 2 ^ 4), Nat.mod_eq_of_lt (by omega : arg < 2 ^ 12),
    ← Nat.shiftLeft_add_eq_or_of_lt (by omega : arg < 2 ^ 12), Nat.shiftLeft_eq]

/-- A reserved word as its top bit and the other bits side by side. -/
theorem reservedWord_append {x : Nat} (h : x < 32768) : cmdWord 8 x = BitVec.ofNat 1 1 ++ BitVec.ofNat 15 x := by
  apply BitVec.eq_of_toNat_eq
  rw [BitVec.toNat_append, BitVec.toNat_ofNat, BitVec.toNat_ofNat, Nat.mod_eq_of_lt (by omega : x < 2 ^ 15),
    ← Nat.shiftLeft_add_eq_or_of_lt (by omega : x < 2 ^ 15), Nat.shiftLeft_eq]
  simp only [cmdWord, BitVec.toNat_ofNat]
  omega

theorem EncodesInRow.rdplt (p : Nat) : EncodesInRow.Statement (.rdplt p) := by
  intro h
  have h1 : (0xF000 : CmdWord) = 15#4 ++ 0#12 := by decide
  simp only [Instr.wf, decide_eq_true_eq] at h
  simp only [encode, tableRow]
  rw [cmdWord_append (by omega) h, h1, BitVec.and_append]
  simp

theorem EncodesInRow.reserved (x : Nat) : EncodesInRow.Statement (.reserved x) := by
  intro h
  have h1 : (0x8000 : CmdWord) = 1#1 ++ 0#15 := by decide
  simp only [Instr.wf, decide_eq_true_eq] at h
  simp only [encode, tableRow]
  rw [reservedWord_append h, h1, BitVec.and_append]
  simp

end Sys2Proof.Laws
end

