-- ==== Sys2Proof/Tests/Slice0.lean ====
section
/-! SUPPORT. The model's own tests. Expected results are the vectors of 95_test_vectors.md, named in each comment, or words
written out from the encodings of 30_encoding.md. The second half gives, for every obligation with hypotheses, a state
and operands that meet them all. -/

namespace Sys2Proof.Tests

open Sys2Proof Sys2Proof.Machine

/-! ## Configurations of 95_test_vectors.md -/

/-- T1. -/
def t1 : Cfg :=
  { defaultCfg with n := 32, b := 4, channelMin := 2, channels := 6, chunkData := 4, nSupported := [32] }

/-- T2. -/
def t2 : Cfg := { defaultCfg with channels := 40, chunkData := 8 }

/-- T3. -/
def t3 : Cfg :=
  { defaultCfg with n := 64, b := 8, channelMin := 4, channels := 10, chunkData := 3, pilotOfs := 1, nSupported := [64] }

/-- T4, invalid. -/
def t4 : Cfg := { t1 with n := 48 }

/-- The response code of an outcome. -/
def rcOf : Host.Outcome State Fault Refusal → Option Rc
  | .next t => t.out.map fun r => r.rc
  | _ => none

/-- The instance after an outcome. -/
def instOf : Host.Outcome State Fault Refusal → Option (Inst Rat)
  | .next t => some t.inst
  | _ => none

/-- A power-on instance of `c` with one pending command word. -/
def withWord (c : Cfg) (w : CmdWord) : State := { State.powerOn c with port := [⟨w, [], []⟩] }

/-! ## Well-formedness: what it refuses -/

theorem test_wf_rdplt_too_wide : (Instr.rdplt 4096).wf = false := by decide
theorem test_wf_rdplt_widest : (Instr.rdplt 4095).wf = true := by decide
theorem test_wf_reserved_too_wide : (Instr.reserved 32768).wf = false := by decide
theorem test_wf_reserved_widest : (Instr.reserved 32767).wf = true := by decide
theorem test_encode_drops_what_wf_refuses : decode (encode (.rdplt 4096)) ≠ .ok (.rdplt 4096) := by decide

/-! ## Decoding: words written out bit by bit (R91, V-CMD-1, V-CMD-2) -/

theorem test_decode_nop : decode 0b0000000000000000 = .ok .nop := by decide
theorem test_decode_rst : decode 0b0001000000000000 = .ok .rst := by decide
theorem test_decode_txtick : decode 0b0010000000000000 = .ok (.txtick false) ∧
    decode 0b0010000000000001 = .ok (.txtick true) := by decide
theorem test_decode_rxtick : decode 0b0011000000000000 = .ok (.rxtick false) ∧
    decode 0b0011000000000001 = .ok (.rxtick true) := by decide
theorem test_decode_rdsts : decode 0b0100000000000000 = .ok .rdsts := by decide
theorem test_decode_rdtxc : decode 0b0101000000000000 = .ok .rdtxc := by decide
theorem test_decode_rdrxc : decode 0b0110000000000000 = .ok .rdrxc := by decide
theorem test_decode_rdplt : decode 0b0111000000000011 = .ok (.rdplt 3) ∧
    decode 0b0111111111111111 = .ok (.rdplt 4095) := by decide
theorem test_decode_reserved : decode 0b1000000000000000 = .ok (.reserved 0) ∧
    decode 0b1111000100100011 = .ok (.reserved 0x7123) := by decide
theorem test_decode_rejects : decode 0x0001 = .error (.mustBeZero 0 1) ∧ decode 0x2002 = .error (.mustBeZero 2 2) ∧
    decode 0x3003 = .error (.mustBeZero 3 3) ∧ decode 0x4FFF = .error (.mustBeZero 4 0xFFF) := by decide
theorem test_decodeTableWord : decodeTableWord 16 0x2001 = some (.txtick true) ∧
    decodeTableWord 16 0x2002 = none := by decide
theorem test_text_form : asmText [] (.txtick true) = "TXTICK A=1" ∧
    asmText ["1", "-1"] (.rxtick true) = "RXTICK V=1 [1, -1]" := by decide

/-! ## Configuration and allocator (V-ALLOC-1, 3, 4, 5) -/

theorem test_alloc_t1 : layout t1 =
    { p := 1, d := 4, dvlen := 1, dataBin := [4, 5, 6, 7], pilot1 := [2], pilot2 := [3] } := by decide
theorem test_alloc_t3 : layout t3 =
    { p := 2, d := 6, dvlen := 2, dataBin := [4, 7, 8, 9, 12, 13], pilot1 := [5, 10], pilot2 := [6, 11] } := by decide
theorem test_invalid_configurations : t4.valid = false ∧ { t1 with b := 5 }.valid = false ∧
    { t1 with b := 32 }.valid = false ∧ { t1 with channelMin := 0 }.valid = false ∧
    { t1 with channelMin := 11 }.valid = false ∧ { t1 with channels := 7 }.valid = false ∧
    { t1 with pilotOfs := 5 }.valid = false ∧ { t1 with channelMin := 10 }.valid = true := by decide
theorem test_roles_t1 : role t1 2 = .pilot1 0 ∧ role t1 3 = .pilot2 0 ∧ role t1 7 = .data 3 ∧ role t1 28 = .mirror 4 ∧
    role t1 0 = .unused ∧ role t1 31 = .unused := by decide
theorem test_mux_t1 : let X := mux (R := Rat) t1 [⟨1, 0⟩, ⟨0, 1⟩, ⟨-1, 0⟩, ⟨0, -1⟩] ⟨1, 0⟩
    X.getD 5 Cpx.zero = ⟨0, 1⟩ ∧ X.getD 27 Cpx.zero = ⟨0, -1⟩ ∧ X.getD 30 Cpx.zero = ⟨1, 0⟩ ∧
    X.getD 16 Cpx.zero = Cpx.zero := by decide

/-! ## Operands, codes, numerics (V-DV, V-ENC, V-DEC, V-PLT, V-SCH) -/

theorem test_dvGet : (List.range 8).map (dvGet [0xB4, 0x1E]) = [0, 1, 3, 2, 2, 3, 1, 0] := by decide
theorem test_dvPut : dvPut [0xFF, 0x00] 2 1 = [0xDF, 0x00] ∧ dvPut [0x00, 0x00] 5 3 = [0x00, 0x0C] ∧
    dvPut [0xB4] 3 7 = [0xF4] := by decide
/-- V-ENC-1, rows 0 and 7, and V-ENC-4 with the offset written as -3. -/
theorem test_newCode : [0, 1, 2, 3].map (newCode 5 0) = [5, 7, 3, 1] ∧
    [0, 1, 2, 3].map (newCode 5 7) = [4, 6, 2, 0] ∧ newCode (-3) 0 0 = 5 := by decide

/-- A numerics record in which an eighth of a turn is 1: the vectors of V-DEC in units of `π/4`. -/
def eighths : Num Rat := { halfPi := 2, alpha := 1 / 50, cos45 := 1, window := fun _ _ => 1, atan2 := fun _ _ => 0 }

theorem test_normAngle : normAngle eighths 4 = -4 ∧ normAngle eighths (-4) = -4 ∧ normAngle eighths 5 = -3 ∧
    normAngle eighths (-5) = 3 ∧ normAngle eighths 8 = 0 := by decide +kernel
theorem test_sector : [-4, -3, -2, -1, 0, 1, 2, 3].map (sector eighths) = [0, 0, 1, 1, 3, 3, 3, 2] := by decide +kernel
theorem test_decodeFields : decodeFields eighths (layout t1) [3, 1, -1, -3] [0, 0, 0, 0] = [0xB4] := by decide +kernel
/-- V-DEC-6, the seam. -/
theorem test_decodeFields_seam : decodeFields eighths (layout t1) [-4, -3, 0, 0] [4, 3, 0, 0] = [0xF7] := by
  decide +kernel
theorem test_smooth : smooth eighths 0 (1 / 5) = 1 / 250 ∧ smooth eighths (1 / 250) (1 / 5) = 99 / 12500 := by
  decide +kernel
theorem test_txState : [0, 1, 6, 7].map (txStateOf 8) = [.fadeIn, .body, .body, .fadeOut] ∧
    [0, 1].map (txStateOf 2) = [.fadeIn, .fadeOut] := by decide

/-! ## The commands -/

/-- An instance of T1 that has sent a symbol: transmit segment, fill index and the two status bits as given. -/
def s1 (seg idx : Nat) (dvValid firstDone : Bool) : State :=
  { State.powerOn t1 with
    inst :=
      { powerOnInst t1 with
        txCode := [5, 7, 1, 3], txSeg := seg, txDv := [0xB4], txDvValid := dvValid, txSymCnt := 1,
        rxFirstDone := firstDone, rxIdx := idx } }

/-- V-CMD-3. -/
theorem test_status_words : statusWord t1 (powerOnInst t1 : Inst Rat) = 0x00000001 ∧
    statusWord t1 (s1 1 0 false false).inst = 0x00000009 ∧ statusWord t1 (s1 7 0 false false).inst = 0x00000011 ∧
    statusWord t1 (s1 0 0 true false).inst = 0x00000005 ∧ statusWord t1 { (powerOnInst t1 : Inst Rat) with rxFirstDone := true } = 3 ∧
    statusWord t4 (powerOnInst t4 : Inst Rat) = 0 := by decide
/-- V-EXC-1. -/
theorem test_priority_inactive : rcOf (step (withWord t4 0x2000)) = some .inactive ∧
    rcOf (step (withWord t4 0x3000)) = some .inactive ∧ rcOf (step (withWord t4 0x2002)) = some .badCommand ∧
    rcOf (step (withWord t4 0x7000)) = some .badArgument ∧ rcOf (step (withWord t4 0x4000)) = some .ok ∧
    rcOf (step (withWord t4 0x1000)) = some .inactive := by decide
theorem test_rdplt_t2 : rcOf (step (withWord t2 0x7003)) = some .ok ∧
    rcOf (step (withWord t2 0x7004)) = some .badArgument := by decide
/-- V-ENC-5 and V-ENC-6, the codes. -/
theorem test_txtick_codes :
    (instOf (exec (.txtick true) { s1 0 0 true false with
      inst := { (s1 0 0 true false).inst with txCode := [0, 0, 0, 0] } })).map (fun S => (S.txCode, S.txSeg, S.txDvValid))
      = some ([5, 7, 1, 3], 1, false) ∧
    (instOf (exec (.txtick true) (State.powerOn t1))).map (fun S => (S.txCode, S.txSymCnt)) =
      some ([0, 0, 0, 0], 1) := by decide +kernel
/-- V-SCH-5. -/
theorem test_txtick_skipped : rcOf (exec (.txtick false) (s1 1 0 false false)) = some .txNoBuffer ∧
    instOf (exec (.txtick false) (s1 1 0 false false)) = some (s1 1 0 false false).inst := by decide +kernel
theorem test_txtick_fade_out :
    (instOf (exec (.txtick true) { s1 7 0 false false with ds := [0x1E] })).map
      (fun S => (S.txDv, S.txDvValid, S.txSeg)) = some ([0x1E], true, 0) := by decide +kernel
theorem test_rxtick_stores :
    (instOf (exec (.rxtick true) { s1 0 4 true false with rxin := [1, 0, -1, 2] })).map (fun S => (S.rxBuf, S.rxIdx)) =
      some ([(4, ⟨1, 0⟩), (6, ⟨-1, 0⟩), (7, ⟨2, 0⟩)], 8) := by decide +kernel
/-- V-DEC-7: two silent symbols, the second of which delivers all threes. -/
theorem test_rxtick_fills :
    (instOf (exec (.rxtick false) (s1 0 28 true false))).map (fun S => (S.rxIdx, S.rxFirstDone, S.rxSymCnt)) =
      some (0, true, 1) := by decide +kernel
/-- V-RST-1, the elements with a reset value. -/
theorem test_rst_transmit : (instOf (exec .rst (s1 3 4 false true))).map
    (fun S => (S.active, S.txCode, S.txSeg, S.txDvValid, S.txSymCnt)) = some (true, [0, 0, 0, 0], 0, false, 0) := by
  decide +kernel
theorem test_rst_receive : (instOf (exec .rst (s1 3 4 false true))).map
    (fun S => (S.rxFirstDone, S.rxIdx, S.rxSymCnt, S.pltAvg)) = some (false, 0, 0, [0]) := by decide +kernel
theorem test_counters : (match exec .rdtxc (s1 1 0 false false) with
    | .next t => t.out.map fun r => r.word
    | _ => none) = some 1 := by decide
/-- The IEEE 754 binary32 values of 0.02 (`0x3CA3D70A`) and of 1/3 (`0x3EAAAAAB`), and the two neighbours of an even
24-bit integer, each half a unit away from two binary32 values. -/
theorem test_roundBinary32 : roundBinary32 (1 / 50) = 10737418 / 536870912 ∧
    roundBinary32 (-1 / 3) = -11184811 / 33554432 ∧ roundBinary32 16777217 = 16777216 ∧
    roundBinary32 16777219 = 16777220 := by decide +kernel
theorem test_withFetchWord : rcOf (step (State.reset.withFetchWord 16 0x2000)) = some .txNoBuffer ∧
    rcOf (step (State.reset.withFetchWord 16 0x8000)) = some .badCommand := by decide

/-! ## Witnesses: states and operands that meet the hypotheses of each obligation -/

/-- Every instance `s1` with a legal segment and fill index meets the invariant. -/
theorem s1_invariant (seg idx : Nat) (dvValid firstDone : Bool) (h1 : seg < 8) (h2 : idx < 32) (h3 : 4 ∣ idx)
    (h4 : dvValid = true ↔ seg = 0) (port : List Command) :
    Invariant { s1 seg idx dvValid firstDone with port := port } := by
  have hp := num_pi_pos t1
  refine
    { shape := ⟨?_, ?_, ?_, ?_, ?_, ?_, Mem.wf_nil, Mem.wf_nil, ?_, ?_⟩
      active_eq := ?_
      txSeg_lt := fun _ => ?_
      rxIdx_lt := fun _ => h2
      rxIdx_dvd := fun _ => h3
      prefetched := h4.1
      firstSymbol := fun _ h h' => absurd (h4.2 h) ?_
      bootstrap := fun _ => ⟨?_, rfl⟩
      inactive := fun h => absurd (show t1.valid = false from h) (by decide)
      rxPhase_range := fun _ a h => ?_
      pltAvg_range := fun _ _ v h => ?_ }
  · show 4 = (layout t1).d; decide
  · show 1 = (layout t1).dvlen; decide
  · show ((List.range (layout t1).d).map fun _ => (0 : Rat)).length = (layout t1).d; simp
  · show (List.replicate (layout t1).p (0 : Rat)).length = (layout t1).p; simp
  · show 1 < 2 ^ 32; decide
  · show 0 < 2 ^ 32; decide
  · intro e h; exact absurd (show e ∈ ([] : Mem Rat) from h) (by simp)
  · intro e h; exact absurd (show e ∈ ([] : Mem Rat) from h) (by simp)
  · exact resetInst_active (R := Rat) t1 (fun _ => 0) (fun _ => 0)
  · show seg < t1.k
    exact lt_of_lt_of_eq h1 (by decide)
  · have : dvValid = false := h'
    simp [this]
  · rfl
  · have h' : a ∈ (List.range (layout t1).d).map fun _ => (0 : Rat) := h
    have : a = 0 := by
      obtain ⟨_, _, e⟩ := List.mem_map.1 h'
      exact e.symm
    subst this
    exact ⟨by show -(num t1).pi ≤ 0; linarith, hp.le⟩
  · have : v = 0 := List.eq_of_mem_replicate (show v ∈ List.replicate (layout t1).p (0 : Rat) from h)
    subst this
    exact ⟨by show -(num t1).pi < 0; linarith, hp⟩

/-- An instance with an invalid configuration meets the invariant too. -/
theorem t4_invariant (port : List Command) : Invariant { State.powerOn t4 with port := port } := by
  have hv : t4.valid = false := by decide
  have hL : layout t4 = emptyLayout := layout_invalid hv
  refine
    { shape := ⟨?_, ?_, ?_, ?_, ?_, ?_, Mem.wf_nil, Mem.wf_nil, ?_, ?_⟩
      active_eq := ?_
      txSeg_lt := fun h => absurd h ?_
      rxIdx_lt := fun h => absurd h ?_
      rxIdx_dvd := fun h => absurd h ?_
      prefetched := fun _ => rfl
      firstSymbol := fun h => absurd h ?_
      bootstrap := fun _ => ⟨rfl, rfl⟩
      inactive := fun _ => rfl
      rxPhase_range := fun h => absurd (show false = true from h) (by decide)
      pltAvg_range := fun _ _ v h => ?_ }
  · simp [powerOnInst]
  · simp [powerOnInst]
  · simp [powerOnInst]
  · simp [powerOnInst]
  · show 0 < 2 ^ 32; decide
  · show 0 < 2 ^ 32; decide
  · intro e h; exact absurd (show e ∈ ([] : Mem Rat) from h) (by simp)
  · intro e h; exact absurd (show e ∈ ([] : Mem Rat) from h) (by simp)
  · exact resetInst_active (R := Rat) t4 _ _
  · show ¬ t4.valid = true; decide
  · show ¬ t4.valid = true; decide
  · show ¬ t4.valid = true; decide
  · show ¬ t4.valid = true; decide
  · have h' : v ∈ List.replicate (layout t4).p (0 : Rat) := h
    rw [hL] at h'
    exact absurd h' (by simp [emptyLayout])

/-- A command with nothing on its side ports. -/
def bare (w : CmdWord) : Command := ⟨w, [], []⟩

/-- A receive tick of T1 with a whole block, and a transmit tick with a whole Data Vector. -/
def rxCmd : Command := ⟨encode (.rxtick true), [1, 2, 3, 4], []⟩
def txCmd : Command := ⟨encode (.txtick true), [], [0x1E]⟩

theorem witness_StepKeepsInvariant : ∃ s t : State, Invariant s ∧ s.port ≠ [] ∧ step s = .next t :=
  ⟨{ s1 3 8 false true with port := [txCmd] }, _, s1_invariant 3 8 false true (by decide) (by decide) (by decide)
    (by decide) _, by simp, rfl⟩

theorem witness_StepRunsDecodedCommand :
    (∃ (s : State) (c : Command) (rest : List Command) (i : Instr), s.port = c :: rest ∧ decode c.word = .ok i) ∧
    (∃ (s : State) (c : Command) (rest : List Command) (e : Reject), s.port = c :: rest ∧ decode c.word = .error e) ∧
    ∃ s : State, s.port = [] :=
  ⟨⟨withWord t1 0x2001, bare 0x2001, [], .txtick true, rfl, by decide⟩,
    ⟨withWord t1 0x2002, bare 0x2002, [], .mustBeZero 2 2, rfl, by decide⟩, State.powerOn t1, rfl⟩

theorem witness_ConfigurationNeverChanges : ∃ s t : State, step s = .next t ∧ s.port ≠ [] :=
  ⟨withWord t1 0x2001, _, rfl, by simp [withWord]⟩

/-- With `k = 0`, so that the state after the run is the state itself. -/
theorem witness_InactiveForEver : ∃ (s t u : State), Invariant s ∧ s.inst.active = false ∧
    Sys2Proof.core.run 0 s = .next t ∧ step t = .next u ∧ t.port ≠ [] :=
  ⟨{ State.powerOn t4 with port := [bare 0x2001] }, _, _, t4_invariant _, by decide, rfl, rfl, by simp⟩

theorem witness_DecodeOfEncode : (Instr.rdplt 4095).wf = true ∧ (Instr.reserved 32767).wf = true := by decide

theorem witness_EncodeOfDecode : decode 0x7FFF = .ok (.rdplt 4095) ∧ decode 0xFFFF = .ok (.reserved 0x7FFF) := by decide

/-- The boundary words of each clause: the lowest and the highest word that sets a must-be-zero bit, and the ends of the
reserved range. -/
theorem witness_BadCommandChangesNothing :
    (∀ w ∈ [(0x0001 : CmdWord), 0x6FFF], w.toNat / 4096 ∈ [0, 1, 4, 5, 6] ∧ w.toNat % 4096 ≠ 0) ∧
    (∀ w ∈ [(0x2002 : CmdWord), 0x3FFF], w.toNat / 4096 ∈ [2, 3] ∧ 2 ≤ w.toNat % 4096) ∧
    ∀ w ∈ [(0x8000 : CmdWord), 0xFFFF], 8 ≤ w.toNat / 4096 := by
  simp

theorem witness_RstTwiceIsRstOnce : ∃ s t u : State, exec .rst s = .next t ∧ exec .rst t = .next u :=
  ⟨s1 3 8 false true, _, _, rfl, rfl⟩

theorem witness_SkippedTransmitTick : (State.powerOn t4).inst.active = false ∧
    (s1 3 8 false true).inst.active = true := by decide

theorem witness_FadeInTick : (s1 0 0 true true).inst.active = true ∧ (s1 0 0 true true).inst.txSeg = 0 ∧
    2 ≤ (s1 0 0 true true).cfg.k := by decide

/-- The first and the last `BODY` segment of T1. -/
theorem witness_BodyTick : ∀ seg ∈ [1, 6], (s1 seg 0 false true).inst.active = true ∧
    1 ≤ (s1 seg 0 false true).inst.txSeg ∧
    (s1 seg 0 false true).inst.txSeg + 2 ≤ (s1 seg 0 false true).cfg.k := by decide

theorem witness_FadeOutTick : ∃ s : State, s.inst.active = true ∧ s.inst.txSeg = s.cfg.k - 1 ∧ 2 ≤ s.cfg.k ∧
    s.ds.length = (layout s.cfg).dvlen :=
  ⟨{ s1 7 0 false true with ds := [0x1E] }, by decide⟩

theorem witness_InactiveReceiveTick : (State.powerOn t4).inst.active = false := by decide

/-- The first block and the last block that does not fill the buffer. -/
theorem witness_ReceiveTickStoresBlock : ∀ idx ∈ [0, 24], ∃ s : State, s = { s1 0 idx true true with rxin := [1, 2, 3, 4] } ∧
    s.inst.active = true ∧ Mem.wf s.inst.rxBuf ∧ s.inst.rxIdx + s.cfg.b < s.cfg.n ∧ s.rxin.length = s.cfg.b := by
  intro idx h
  refine ⟨_, rfl, rfl, Mem.wf_nil, ?_, rfl⟩
  have : idx = 0 ∨ idx = 24 := by simpa using h
  rcases this with rfl | rfl <;> decide

theorem witness_ReceiveTickDecodes : ∃ s : State, s.inst.active = true ∧ Mem.wf s.inst.rxBuf ∧ 1 ≤ s.cfg.b ∧
    s.inst.rxIdx + s.cfg.b = s.cfg.n ∧ s.rxin.length = s.cfg.b ∧ s.inst.rxFirstDone = true :=
  ⟨{ s1 0 28 true true with rxin := [1, 2, 3, 4] }, rfl, Mem.wf_nil, by decide, by decide, rfl, rfl⟩

theorem witness_CounterReadsAnswerCounters : ∃ s : State, s.inst.txSymCnt = 2 ^ 32 - 1 ∧ s.inst.rxSymCnt < 2 ^ 32 :=
  ⟨{ s1 0 0 true true with inst := { (s1 0 0 true true).inst with txSymCnt := 2 ^ 32 - 1 } }, rfl, by decide⟩

/-- T1 has the pair 0 and no pair 1; T4 has no pair. -/
theorem witness_RdpltAnswersAverage : 0 < (layout t1).p ∧ (layout t1).p ≤ 1 ∧ (layout t4).p ≤ 0 := by decide

theorem witness_ConditionPriority : ∃ s t u v w : State, s.inst.active = false ∧ exec (.txtick false) s = .next t ∧
    exec (.rxtick false) s = .next u ∧ (layout s.cfg).p ≤ 0 ∧ exec (.rdplt 0) s = .next v ∧
    s.port = [bare 0x2002] ∧ decode 0x2002 = .error (.mustBeZero 2 2) ∧ step s = .next w :=
  ⟨{ State.powerOn t4 with port := [bare 0x2002] }, _, _, _, _, by decide, rfl, rfl, by decide, rfl, rfl, by decide, rfl⟩

theorem witness_ConditionPriority_active : ∃ (s t u : State) (r : Response), s.inst.active = true ∧
    exec (.txtick false) s = .next t ∧ exec (.rxtick false) s = .next u ∧ u.out = some r :=
  ⟨s1 0 28 true true, _, _, _, rfl, rfl, rfl, rfl⟩

/-- One command for each of the four response codes. -/
theorem witness_ConditionsArePrecise : ∀ x ∈ [(Instr.rxtick true, t4, Rc.inactive), (.txtick false, t1, .txNoBuffer),
    (.reserved 5, t1, .badCommand), (.rdplt 1, t1, .badArgument)],
    ∃ (s t : State) (r : Response), s.cfg = x.2.1 ∧ Invariant s ∧ exec x.1 s = .next t ∧ t.out = some r ∧ r.rc = x.2.2 := by
  intro x h
  simp only [List.mem_cons, List.not_mem_nil, or_false] at h
  have hs := s1_invariant 3 8 false true (by decide) (by decide) (by decide) (by decide) []
  rcases h with rfl | rfl | rfl | rfl
  · exact ⟨_, _, _, rfl, t4_invariant [], rfl, rfl, rfl⟩
  · exact ⟨_, _, _, rfl, hs, rfl, rfl, rfl⟩
  · exact ⟨_, _, _, rfl, hs, rfl, rfl, rfl⟩
  · exact ⟨_, _, _, rfl, hs, rfl, rfl, rfl⟩

/-- The segment clauses of the frame: a segment that is neither the first nor the last. -/
theorem witness_TransmitTickFrame : ∃ s t : State, exec (.txtick true) s = .next t ∧ s.inst.txSeg ≠ 0 ∧
    s.inst.txSeg ≠ s.cfg.k - 1 :=
  ⟨s1 1 0 false true, _, rfl, by decide, by decide⟩

theorem witness_ReceiveTickFrame : ∃ s t : State, exec (.rxtick true) s = .next t ∧
    s.inst.rxIdx + s.cfg.b < s.cfg.n ∧ Mem.wf s.inst.rxBuf :=
  ⟨s1 0 24 true true, _, rfl, by decide, Mem.wf_nil⟩

theorem witness_OnlyResetWritesModes : ∃ s t : State, exec (.rxtick true) s = .next t ∧ Instr.rxtick true ≠ .rst ∧
    s.inst.rxFirstDone = true :=
  ⟨s1 0 28 true true, _, rfl, by decide, rfl⟩

theorem witness_DatasourceOnlyAtFadeOut : ∃ (s t : State) (r : Response), exec (.txtick true) s = .next t ∧
    t.out = some r ∧ s.inst.active = true ∧ s.inst.txSeg = s.cfg.k - 1 :=
  ⟨s1 7 0 false true, _, _, rfl, rfl, rfl, by decide⟩

theorem witness_OneEventPerReceiveTick : ∃ (s t : State) (r : Response), Invariant s ∧ exec (.rxtick true) s = .next t ∧
    t.out = some r ∧ s.inst.active = true ∧ s.inst.rxIdx + s.cfg.b = s.cfg.n ∧ s.inst.rxFirstDone = true :=
  ⟨_, _, _, s1_invariant 0 28 true true (by decide) (by decide) (by decide) (by decide) [], rfl, rfl, rfl, by decide, rfl⟩

theorem witness_ListenerVectorsAreWhole : ∃ (s t : State) (r : Response) (dv : List Byte),
    exec (.rxtick false) s = .next t ∧ t.out = some r ∧ dv ∈ r.listener := by
  refine ⟨s1 0 28 true true, _, _,
    decodedDv (build t1) (storeBlock (s1 0 28 true true).inst (silence 4)), rfl, rfl, ?_⟩
  have h := rxPush_decode (build t1) (silence 4) (s1 0 28 true true).inst (by decide) (by decide)
  show _ ∈ (rxPush (build t1) (silence 4) (s1 0 28 true true).inst).2
  rw [h]
  simp only [decEvents]
  rw [storeBlock_eq]
  simp [s1]

theorem witness_PilotEstimateFeedsNothing : ∃ s t u : State, exec (.rdplt 0) s = .next t ∧
    exec (.rxtick true) s = .next u ∧ (∀ p : Nat, Instr.rxtick true ≠ .rdplt p) ∧ s.inst.pltAvg ≠ [1] :=
  ⟨s1 0 28 true true, _, _, rfl, rfl, by simp, by decide⟩

theorem witness_TickHalvesCommute : ∃ s t u : State, rxCmd.word = encode (.rxtick true) ∧
    txCmd.word = encode (.txtick true) ∧ rxCmd.rxin.length = s.cfg.b ∧ txCmd.ds.length = (layout s.cfg).dvlen ∧
    Sys2Proof.core.run 2 { s with port := [rxCmd, txCmd] } = .next t ∧
    Sys2Proof.core.run 2 { s with port := [txCmd, rxCmd] } = .next u :=
  ⟨s1 7 28 false true, _, _, rfl, rfl, rfl, by decide, rfl, rfl⟩

/-- A starved receive tick and a transmit tick that fetches nothing, with empty ports. -/
theorem witness_TickHalvesCommute_bare : ∃ s t u : State, (bare 0x3000).word = encode (.rxtick false) ∧
    (bare 0x2001).word = encode (.txtick true) ∧ s.inst.txSeg ≠ s.cfg.k - 1 ∧
    Sys2Proof.core.run 2 { s with port := [bare 0x3000, bare 0x2001] } = .next t ∧
    Sys2Proof.core.run 2 { s with port := [bare 0x2001, bare 0x3000] } = .next u :=
  ⟨s1 3 28 false true, _, _, rfl, rfl, by decide, rfl, rfl⟩

theorem witness_ReceiveSymbolTakesKTicks : ∃ (s : State) (cmds rest : List Command), Invariant s ∧ s.inst.active = true ∧
    s.inst.rxIdx = 0 ∧ s.port = cmds ++ rest ∧ cmds.length = s.cfg.k ∧
    ∀ c ∈ cmds, ∃ v : Bool, c.word = encode (.rxtick v) := by
  refine ⟨_, List.replicate 8 rxCmd, [bare 0],
    s1_invariant 3 0 false true (by decide) (by decide) (by decide) (by decide) _, rfl, rfl, rfl, by decide, ?_⟩
  intro c h
  exact ⟨true, by rw [List.eq_of_mem_replicate h]; rfl⟩

theorem witness_TransmitSymbolTakesKTicks : ∃ (s : State) (cmds rest : List Command), Invariant s ∧
    s.inst.active = true ∧ s.inst.txSeg = 0 ∧ s.port = cmds ++ rest ∧ cmds.length = s.cfg.k ∧
    ∀ c ∈ cmds, c.word = encode (.txtick true) := by
  refine ⟨_, List.replicate 8 txCmd, [bare 0],
    s1_invariant 0 4 true true (by decide) (by decide) (by decide) (by decide) _, rfl, rfl, rfl, by decide, ?_⟩
  intro c h
  rw [List.eq_of_mem_replicate h]
  rfl

/-- The valid configurations T1, T2, T3 and the invalid T4, for the statements about the allocator and the multiplexer;
the first and the last group and data channel of T3, whose pilot pair is inside its group. -/
theorem witness_AllocationMeetsConstraints : t1.valid = true ∧ t2.valid = true ∧ t3.valid = true ∧ t4.valid = false ∧
    (∀ q ∈ [0, 1], q < (layout t3).p) ∧ ∀ r ∈ [0, 2], r < t3.chunkData := by decide

/-- The first and the last data channel and pilot pair of T3. -/
theorem witness_DemuxReadsActiveBinsOnly_bins : t3.valid = true ∧ (∀ d ∈ [0, 5], d < (layout t3).d) ∧
    ∀ p ∈ [0, 1], p < (layout t3).p := by decide

/-- Two spectra that differ at bin 0 and agree on the active bins. -/
theorem witness_DemuxReadsActiveBinsOnly : ∃ Y Z : List (Cpx Rat), t1.valid = true ∧ Y ≠ Z ∧
    ∀ i : Nat, t1.channelMin ≤ i → i ≤ t1.channelMax → Y.getD i Cpx.zero = Z.getD i Cpx.zero := by
  refine ⟨[⟨1, 0⟩], [⟨2, 0⟩], by decide, by decide, fun i h _ => ?_⟩
  have h' : 2 ≤ i := h
  obtain ⟨j, rfl⟩ : ∃ j, i = j + 2 := ⟨i - 2, by omega⟩
  simp

theorem witness_SpectrumIsHermitian : t1.valid = true ∧ 1 ≤ 31 ∧ 31 < t1.n := by decide

theorem witness_SpectrumFollowsRoles : t3.valid = true ∧ 63 < t3.n := by decide

theorem witness_PhaseCodeAdvance : 3 < [(0 : PhaseCode), 1, 2, 7].length := by decide

theorem witness_DataVectorFields : 7 / 4 < [(0xB4 : Byte), 0x1E].length ∧ (0 : Nat) ≠ 7 := by decide

theorem witness_DecodedFieldIsItsSector : 3 < (layout t1).d := by decide

/-- The boundary values of the four clauses, in units of `π/4`. -/
theorem witness_SectorSplit : 0 < eighths.halfPi ∧ eighths.halfPi < 3 ∧ (0 : Rat) ≤ 0 ∧ (0 : Rat) ≤ eighths.halfPi ∧
    (2 : Rat) ≤ eighths.halfPi ∧ -3 < -eighths.halfPi ∧ -eighths.halfPi ≤ (-2 : Rat) ∧ (-2 : Rat) < 0 := by decide +kernel

theorem witness_NormIntoRange : 0 < eighths.halfPi ∧ -eighths.twoPi ≤ -8 ∧ (8 : Rat) ≤ eighths.twoPi := by decide +kernel

theorem witness_PilotEstimateConverges : (1 : ℝ) ≠ 0 := one_ne_zero

theorem witness_WindowTableShape : 1 ≤ t1.b ∧ 3 < t1.b ∧ 4 ≤ t1.b := by decide

/-- The first, a middle and the last segment of T1, and the ends of its symbol. -/
theorem witness_EnvelopeOfSymbol : (∀ seg ∈ [0, 3, 7], (s1 seg 0 false true).cfg.valid = true ∧
    (s1 seg 0 false true).inst.active = true ∧ (s1 seg 0 false true).inst.txSeg < (s1 seg 0 false true).cfg.k) ∧
    t1.valid = true ∧ 1 ≤ 31 ∧ 31 < t1.n := by decide

theorem witness_ReferencePassReadsNoDataVector : (State.powerOn t1).inst.active = true ∧
    (State.powerOn t1).inst.txSeg = 0 ∧ (State.powerOn t1).inst.txDvValid = false ∧ 2 ≤ (State.powerOn t1).cfg.k := by
  decide

theorem witness_BootstrapReadsNoStoredAngle : (s1 0 28 true false).inst.active = true ∧
    (s1 0 28 true false).inst.rxFirstDone = false ∧ 1 ≤ (s1 0 28 true false).cfg.b ∧
    (s1 0 28 true false).inst.rxIdx + (s1 0 28 true false).cfg.b = (s1 0 28 true false).cfg.n := by decide

/-- A build whose forward transform answers zeros. -/
theorem witness_SilentSymbolsDecodeToThree : ∃ (E : Build Rat) (S : Inst Rat) (buf : Mem Rat), 0 < E.num.halfPi ∧
    (∀ i : Nat, (rxSpectrum E S).getD i Cpx.zero = Cpx.zero) ∧
    (∀ i : Nat, (rxSpectrum E { S with rxBuf := buf }).getD i Cpx.zero = Cpx.zero) ∧ 3 < (layout E.cfg).d := by
  have h : ∀ (n i : Nat), (fit n ([] : List (Cpx Rat))).getD i Cpx.zero = Cpx.zero := by
    intro n i
    rw [fit_getD]
    simp
  exact ⟨{ cfg := t1, num := eighths, xf := { ifft := fun _ => [], fft := fun _ => [] } }, powerOnInst t1,
    [(0, ⟨1, 0⟩)], by decide +kernel, h _, h _, by decide⟩

/-- Four channels turned by four angles; in units of `π/4`. -/
theorem witness_ConstantRotationCancels_channels : ∀ d < (layout t1).d, ∃ φ : Rat,
    [4, 3, 2, 1].getD d 0 = [3, 1, -1, -3].getD d 0 + φ ∧ [1, 2, 3, 4].getD d 0 = [0, 0, 0, 0].getD d 0 + φ := by
  intro d h
  have h' : d < 4 := h
  refine ⟨[1, 2, 3, 4].getD d 0, ?_⟩
  interval_cases d <;> decide +kernel

/-- A quarter turn that takes the first channel's new angle and the second channel's stored angle through the seam. -/
theorem witness_ConstantRotationCancels_seam : 0 < eighths.halfPi ∧
    (∀ l ∈ [[3, 1, -1, -3], [1, 3, 0, 0], [-3, 3, 1, -1], [3, -3, 2, 2]], ∀ d < (layout t1).d,
      -eighths.pi ≤ l.getD d 0 ∧ l.getD d 0 ≤ eighths.pi) ∧
    ∀ d < (layout t1).d, ∃ (φ : Rat) (i j : Int),
      [-3, 3, 1, -1].getD d 0 = [3, 1, -1, -3].getD d 0 + φ + i * eighths.twoPi ∧
      [3, -3, 2, 2].getD d 0 = [1, 3, 0, 0].getD d 0 + φ + j * eighths.twoPi := by
  refine ⟨by decide +kernel, by decide +kernel, fun d h => ?_⟩
  have h' : d < 4 := h
  refine ⟨2, [-1, 0, 0, 0].getD d 0, [0, -1, 0, 0].getD d 0, ?_⟩
  interval_cases d <;> decide +kernel

/-- Half a turn of every channel, with a gain of 2 in the second symbol. -/
theorem witness_ConstantRotationCancels_points : ∃ Y T Y' T' : List (Cpx ℝ), t1.valid = true ∧
    ∀ i ∈ (layout t1).dataBin, Y.getD i Cpx.zero ≠ Cpx.zero ∧ T.getD i Cpx.zero ≠ Cpx.zero ∧
      ∃ φ g h : ℝ, 0 < g ∧ 0 < h ∧ Y'.getD i Cpx.zero = rotate g φ (Y.getD i Cpx.zero) ∧
        T'.getD i Cpx.zero = rotate h φ (T.getD i Cpx.zero) := by
  refine ⟨List.replicate 8 ⟨1, 0⟩, List.replicate 8 ⟨0, 1⟩, List.replicate 8 ⟨-2, 0⟩, List.replicate 8 ⟨0, -1⟩,
    by decide, fun i h => ?_⟩
  have h' : i ∈ [4, 5, 6, 7] := h
  have hi : i < 8 := by
    simp only [List.mem_cons, List.not_mem_nil, or_false] at h'
    omega
  have e : ∀ z : Cpx ℝ, (List.replicate 8 z).getD i Cpx.zero = z := fun z => by
    rw [List.getD_eq_getElem _ _ (by simpa using hi), List.getElem_replicate]
  refine ⟨?_, ?_, Real.pi, 2, 1, by norm_num, by norm_num, ?_, ?_⟩ <;> simp only [e] <;> simp [Cpx.zero, rotate]

/-- A transform pair that keeps bin `i` of a spectrum in the real samples `i` and `N - i`, and reads it back; `conj` says
whether the imaginary part comes back negated. -/
def packing (n : Nat) (conj : Bool) : Xf ℝ where
  ifft := fun X => (List.range n).map fun i =>
    if 2 * i ≤ n then ⟨(X.getD i Cpx.zero).re, 0⟩ else ⟨(X.getD (n - i) Cpx.zero).im, 0⟩
  fft := fun x => (List.range n).map fun i =>
    ⟨(x.getD i Cpx.zero).re, if conj then -(x.getD (n - i) Cpx.zero).re else (x.getD (n - i) Cpx.zero).re⟩

/-- T1 with an offset, the reference numerics and a packing pair. -/
noncomputable def packBuild (offset : Int) (conj : Bool) : Build ℝ :=
  { cfg := { t1 with offset := offset }, num := refNum 0, xf := packing 32 conj }

theorem packing_loopback (offset : Int) (conj : Bool) (X : List (Cpx ℝ)) (i : Nat) (h1 : 1 ≤ i) (h2 : i < 16) :
    (loopback (packBuild offset conj) X).getD i Cpx.zero =
      ⟨(X.getD i Cpx.zero).re, if conj then -(X.getD i Cpx.zero).im else (X.getD i Cpx.zero).im⟩ := by
  have e : 32 - (32 - i) = i := by omega
  have h3 : ¬ 2 * (32 - i) ≤ 32 := by omega
  have h4 : 32 - i < 32 := by omega
  simp [loopback, forward, inverse, packBuild, packing, t1, h2.trans (by decide : 16 < 32), fit, Cpx.ofReal,
    h3, h4, e, show 2 * i ≤ 32 by omega]

theorem active_t1 {i : Nat} {o : Int} (h : isActive { t1 with offset := o } i = true) : 1 ≤ i ∧ i < 16 := by
  simp only [isActive, Bool.and_eq_true] at h
  have h1 : 2 ≤ i := of_decide_eq_true h.1
  have h2 : i ≤ 7 := of_decide_eq_true h.2
  omega

theorem packing_conj (offset : Int) : LoopbackConj (packBuild offset true) := by
  intro codes _
  refine ⟨1, one_pos, fun i hi => ?_⟩
  obtain ⟨h1, h2⟩ := active_t1 hi
  rw [packing_loopback _ _ _ _ h1 h2]
  simp

theorem packing_plain (offset : Int) : LoopbackPlain (packBuild offset false) := by
  intro codes _
  refine ⟨1, one_pos, fun i hi => ?_⟩
  obtain ⟨h1, h2⟩ := active_t1 hi
  rw [packing_loopback _ _ _ _ h1 h2]
  simp

/-- An instance that holds a Data Vector and has just sent the symbol of its codes. -/
noncomputable def sender (E : Build ℝ) : Inst ℝ :=
  { resetInst t1 (fun _ => 0) (fun _ => 0) with
    txCode := [5, 7, 1, 3]
    txDv := [0xB4]
    txDvValid := true
    txBuf := Mem.ofList (inverse E (txSpectrum E [5, 7, 1, 3])) }

theorem witness_LoopbackRoundTrip : ∃ (c : Cfg) (x : Xf ℝ) (z : ℝ) (S : Inst ℝ),
    let E : Build ℝ := { cfg := c, num := refNum z, xf := x }
    c.valid = true ∧ c.offset = 5 ∧ LoopbackConj E ∧ S.txDvValid = true ∧ S.txCode.length = (layout c).d ∧
    S.txBuf = Mem.ofList (inverse E (txSpectrum E S.txCode)) ∧ S.txDv.length = (layout c).dvlen ∧
    ∀ d ≥ (layout c).d, dvGet S.txDv d = 0 := by
  refine ⟨{ t1 with offset := 5 }, packing 32 true, 0, sender (packBuild 5 true), by decide, rfl, packing_conj 5, rfl,
    by show 4 = (layout { t1 with offset := 5 }).d; decide, rfl, by
      show 1 = (layout { t1 with offset := 5 }).dvlen; decide, fun d hd => ?_⟩
  have h : 4 ≤ d := le_trans (by decide) hd
  obtain ⟨k, hk⟩ : ∃ k, d / 4 = k + 1 := ⟨d / 4 - 1, by omega⟩
  simp [sender, dvGet, hk]

theorem witness_OtherChoicesPermuteFields :
    (∃ (c : Cfg) (x : Xf ℝ) (S : Inst ℝ), let E : Build ℝ := { cfg := c, num := refNum 0, xf := x }
      c.valid = true ∧ S.txDvValid = true ∧ S.txCode.length = (layout c).d ∧
      S.txBuf = Mem.ofList (inverse E (txSpectrum E S.txCode)) ∧ 3 < (layout c).d ∧ LoopbackPlain E ∧ c.offset = 5) ∧
    (∃ (c : Cfg) (x : Xf ℝ) (S : Inst ℝ), let E : Build ℝ := { cfg := c, num := refNum 0, xf := x }
      c.valid = true ∧ S.txDvValid = true ∧ S.txCode.length = (layout c).d ∧
      S.txBuf = Mem.ofList (inverse E (txSpectrum E S.txCode)) ∧ 3 < (layout c).d ∧ LoopbackPlain E ∧ c.offset = 3) ∧
    ∃ (c : Cfg) (x : Xf ℝ) (S : Inst ℝ), let E : Build ℝ := { cfg := c, num := refNum 0, xf := x }
      c.valid = true ∧ S.txDvValid = true ∧ S.txCode.length = (layout c).d ∧
      S.txBuf = Mem.ofList (inverse E (txSpectrum E S.txCode)) ∧ 3 < (layout c).d ∧ LoopbackConj E ∧ c.offset = 3 := by
  refine ⟨⟨{ t1 with offset := 5 }, packing 32 false, sender (packBuild 5 false), by decide, rfl, ?_, rfl, by decide,
      packing_plain 5, rfl⟩,
    ⟨{ t1 with offset := 3 }, packing 32 false, sender (packBuild 3 false), by decide, rfl, ?_, rfl, by decide,
      packing_plain 3, rfl⟩,
    ⟨{ t1 with offset := 3 }, packing 32 true, sender (packBuild 3 true), by decide, rfl, ?_, rfl, by decide,
      packing_conj 3, rfl⟩⟩
  · show 4 = (layout { t1 with offset := 5 }).d; decide
  · show 4 = (layout { t1 with offset := 3 }).d; decide
  · show 4 = (layout { t1 with offset := 3 }).d; decide

/-- In the reference semantics: T1 after power-on, with a receive tick pending, and 0 as the open value. -/
theorem witness_ReferenceStepKeepsInvariant : ∃ s : Sys ℝ, -Real.pi ≤ 0 ∧ 0 ≤ Real.pi ∧ s.port ≠ [] ∧
    Sys.Invariant (fun _ => refNum 0) s := by
  have hp : 0 < (refNum 0).pi := by
    have := Real.pi_pos
    simp only [Num.pi, refNum]
    linarith
  refine ⟨{ Sys.powerOn t1 with port := [⟨encode (.rxtick false), [], []⟩] }, by linarith [Real.pi_pos],
    Real.pi_pos.le, by simp, ?_⟩
  refine
    { shape := ⟨?_, ?_, ?_, ?_, Nat.two_pow_pos _, Nat.two_pow_pos _, Mem.wf_nil, Mem.wf_nil, ?_, ?_⟩
      active_eq := rfl
      txSeg_lt := fun _ => show 0 < t1.k by decide
      rxIdx_lt := fun _ => show 0 < t1.n by decide
      rxIdx_dvd := fun _ => dvd_zero _
      prefetched := fun _ => rfl
      firstSymbol := fun _ _ _ => ⟨rfl, rfl, rfl⟩
      bootstrap := fun _ => ⟨rfl, rfl⟩
      inactive := fun _ => rfl
      rxPhase_range := fun h => absurd (show false = true from h) (by decide)
      pltAvg_range := fun _ _ v h => ?_ }
  · simp [Sys.powerOn, powerOnInst]
  · simp [Sys.powerOn, powerOnInst]
  · simp [Sys.powerOn, powerOnInst]
  · simp [Sys.powerOn, powerOnInst]
  · intro e h; exact absurd (show e ∈ ([] : Mem ℝ) from h) (by simp)
  · intro e h; exact absurd (show e ∈ ([] : Mem ℝ) from h) (by simp)
  · have : v = 0 := List.eq_of_mem_replicate (show v ∈ List.replicate (layout t1).p (0 : ℝ) from h)
    subst this
    exact ⟨neg_lt_zero.2 hp, hp⟩

/-- The same commands before a block over the rationals and a block over the reals, with other samples. -/
theorem witness_SequencingIgnoresSampleValues : ∃ (s : Sys ℝ) (s' : Sys Rat), s.port ≠ [] ∧ s'.control = s.control :=
  ⟨{ Sys.powerOn t1 with port := [⟨encode (.rxtick true), [1, 2, 3, 4], []⟩] },
    { Sys.powerOn t1 with port := [⟨encode (.rxtick true), [0], []⟩] }, by simp, rfl⟩

end Sys2Proof.Tests
end

section
/-! PROOFS. The machine as a whole (00_scope.md): a step runs the decoded command and every run goes on (R14, R17), and
the machine is the block at its own numerics (R8). -/

namespace Sys2Proof.Machine

/-- The machine's step is the block's step: `exec_eq` on each of the three ways of a step. -/
theorem step_eq (s : State) : step s = .next { toSys := s.toSys.step machineEnv } := by
  cases hp : s.port with
  | nil => rw [step_idle hp, Sys_step_idle _ hp]
  | cons c rest =>
    cases hd : decode c.word with
    | ok i => rw [step_word hp hd, exec_eq, Sys_step_word _ hp hd]
    | error e => rw [step_rejected hp hd, Sys_step_rejected _ hp hd]

/-- Settles O58, command by command (`exec_eq`) and then step by step (`step_eq`). -/
theorem stepIsTheBlockAtMachineNumerics : Obligations.StepIsTheBlockAtMachineNumerics :=
  ⟨exec_eq, step_eq⟩

/-- Settles O3: `accept` is the record update the statement writes out, and `badCommand` empties the ports again. -/
theorem stepRunsDecodedCommand : Obligations.StepRunsDecodedCommand :=
  ⟨fun _ _ _ _ hp hd => step_word hp hd, fun _ _ _ _ hp hd => step_rejected hp hd, fun _ hp => step_idle hp⟩

/-- Settles O4, by induction on the number of steps: every single step answers a next state (`step_eq`). -/
theorem everyRunCompletes : Obligations.EveryRunCompletes := by
  intro k
  induction k with
  | zero => exact fun s => ⟨s, run_zero s⟩
  | succ k ih =>
    intro s
    rw [run_succ k (step_eq s)]
    exact ih _

end Sys2Proof.Machine
end

section
/-! PROOFS. Noninterference of the values of `R` (R8, R182, R198): two blocks over any two carriers, with any
operations, that agree on what controls them agree on it after every operation. Primed names belong to the second
block. -/

set_option linter.unusedSectionVars false

namespace Sys2Proof.Machine

section
variable {R R' : Type}

/-- Two instances agree on every element that is no value of `R`: `Sys.control` on the part of the state that the
operations of the block work on (`control_eq_iff`). -/
structure Inst.SameControl (S : Inst R) (S' : Inst R') : Prop where
  active_eq : S'.active = S.active
  txCode_eq : S'.txCode = S.txCode
  txSeg_eq : S'.txSeg = S.txSeg
  txDv_eq : S'.txDv = S.txDv
  txDvValid_eq : S'.txDvValid = S.txDvValid
  txSymCnt_eq : S'.txSymCnt = S.txSymCnt
  rxFirstDone_eq : S'.rxFirstDone = S.rxFirstDone
  rxIdx_eq : S'.rxIdx = S.rxIdx
  rxSymCnt_eq : S'.rxSymCnt = S.rxSymCnt

/-- The status word reads nothing but control elements (R98). -/
theorem Inst.SameControl.statusWord {S : Inst R} {S' : Inst R'} (h : Inst.SameControl S S') (c : Cfg) :
    statusWord c S' = statusWord c S := by
  simp only [Machine.statusWord, h.txSeg_eq, h.txDvValid_eq, h.rxFirstDone_eq, h.active_eq]

end

section
variable {R R' : Type} [Zero R] [Zero R']

/-- What `Sys.control` keeps of a response: the code, the data word, and the sizes of the events. -/
def ResponseOf.control (r : ResponseOf R) : Rc × DataWord × Option Nat × List Nat × Bool :=
  (r.rc, r.word, r.txout.map List.length, r.listener.map List.length, r.dsUsed)

/-- What `Sys.control` keeps of a pending command. -/
def CommandOf.control (c : CommandOf R) : CmdWord × List Byte := (c.word, c.ds)

/-- Two blocks agree on what controls them, element by element (`control_eq_iff`). -/
structure Sys.SameControl (s : Sys R) (s' : Sys R') : Prop where
  cfg_eq : s'.cfg = s.cfg
  inst : Inst.SameControl s.inst s'.inst
  port_eq : s'.port.map CommandOf.control = s.port.map CommandOf.control
  ds_eq : s'.ds = s.ds
  out_eq : s'.out.map ResponseOf.control = s.out.map ResponseOf.control
  stepNo_eq : s'.stepNo = s.stepNo

theorem control_eq_iff {s : Sys R} {s' : Sys R'} : s'.control = s.control ↔ Sys.SameControl s s' := by
  simp only [Sys.control, Control.mk.injEq]
  constructor
  · rintro ⟨hcfg, h1, h2, h3, h4, h5, h6, h7, h8, h9, hport, hds, hout, hstep⟩
    exact ⟨hcfg, ⟨h1, h2, h3, h4, h5, h6, h7, h8, h9⟩, hport, hds, hout, hstep⟩
  · rintro ⟨hcfg, ⟨h1, h2, h3, h4, h5, h6, h7, h8, h9⟩, hport, hds, hout, hstep⟩
    exact ⟨hcfg, h1, h2, h3, h4, h5, h6, h7, h8, h9, hport, hds, hout, hstep⟩

section
variable {s : Sys R} {s' : Sys R'} (h : Sys.SameControl s s')
include h

/-- The end of a command, when the new instances and the responses agree. -/
theorem finish_sameControl {S : Inst R} {S' : Inst R'} {r : ResponseOf R} {r' : ResponseOf R'}
    (hS : Inst.SameControl S S') (hr : r'.control = r.control) :
    Sys.SameControl (s.finish S r) (s'.finish S' r') :=
  { h with
    inst := hS
    ds_eq := rfl
    out_eq := congrArg some hr
    stepNo_eq := congrArg (· + 1) h.stepNo_eq }

theorem raise_sameControl (rc : Rc) : Sys.SameControl (raise rc s) (raise rc s') :=
  finish_sameControl h h.inst rfl

theorem answerWord_sameControl {w w' : DataWord} (hw : w' = w) :
    Sys.SameControl (answerWord w s) (answerWord w' s') :=
  hw ▸ finish_sameControl h h.inst rfl

/-- The oldest pending commands put on the ports, when they have the same word and the same `DATASOURCE` bytes. -/
theorem accept_sameControl {c : CommandOf R} {c' : CommandOf R'} {rest : List (CommandOf R)}
    {rest' : List (CommandOf R')} (hc : c'.control = c.control)
    (hrest : rest'.map CommandOf.control = rest.map CommandOf.control) :
    Sys.SameControl (s.accept c rest) (s'.accept c' rest') :=
  { h with
    port_eq := hrest
    ds_eq := congrArg Prod.snd hc }

end

/-- Two resets differ in the unspecified angles only. -/
theorem resetInst_sameControl (c : Cfg) (b : Nat → Byte) (p : Nat → R) (p' : Nat → R') :
    Inst.SameControl (resetInst c b p) (resetInst c b p') :=
  ⟨rfl, rfl, rfl, rfl, rfl, rfl, rfl, rfl, rfl⟩

end

/-- Every field is put into a vector of `DVLEN` bytes (R167). -/
theorem decodeFields_length {R : Type} [Zero R] [Add R] [Sub R] [Neg R] [Mul R] [LinearOrder R] (m : Num R)
    (L : Layout) (angles stored : List R) : (decodeFields m L angles stored).length = L.dvlen :=
  List.foldlRecOn _ _ (motive := fun dv : List Byte => dv.length = L.dvlen) List.length_replicate
    fun _ ih _ _ => (dvPut_length _ _ _).trans ih

section
variable {R R' : Type} [Zero R] [One R] [Add R] [Sub R] [Neg R] [Mul R] [LinearOrder R]
  [Zero R'] [One R'] [Add R'] [Sub R'] [Neg R'] [Mul R'] [LinearOrder R'] {E : Build R} {E' : Build R'}
  {S : Inst R} {S' : Inst R'}

theorem decodedDv_length (E : Build R) (S : Inst R) : (decodedDv E S).length = (layout E.cfg).dvlen :=
  decodeFields_length _ _ _ _

section
variable (hE : E'.cfg = E.cfg) (h : Inst.SameControl S S')
include hE h

/-- The transmit side computes its codes, flags and counter from control elements (R150, R191). -/
theorem txEncoded_sameControl : Inst.SameControl (txEncoded E S) (txEncoded E' S') := by
  have hsent : sentCodes E' S' = sentCodes E S := by
    simp only [sentCodes, hE, h.txDvValid_eq, h.txDv_eq, h.txCode_eq]
  by_cases hseg : S.txSeg = 0
  · rw [txEncoded_fadeIn E S hseg, txEncoded_fadeIn E' S' (h.txSeg_eq.trans hseg)]
    exact { h with
      txCode_eq := hsent
      txDvValid_eq := rfl
      txSymCnt_eq := by simp only [encSym_txSymCnt, hE, h.txSymCnt_eq] }
  · rw [txEncoded_later E S hseg, txEncoded_later E' S' (h.txSeg_eq ▸ hseg)]
    exact h

theorem txFetches_eq_of_sameControl : txFetches E' S' = txFetches E S := by
  simp only [txFetches, hE, h.txSeg_eq]

theorem txStep_sameControl (dv : List Byte) : Inst.SameControl (txStep E dv S) (txStep E' dv S') := by
  have henc := txEncoded_sameControl hE h
  have hfetch := txFetches_eq_of_sameControl hE h
  exact { henc with
    txSeg_eq := by simp only [txStep_txSeg, hE, h.txSeg_eq]
    txDv_eq := by simp only [txStep_txDv, hfetch, henc.txDv_eq]
    txDvValid_eq := by simp only [txStep_txDvValid, hfetch, henc.txDvValid_eq] }

/-- The decoder writes its flag and its counter and no other control element (R169). -/
theorem decSym_sameControl : Inst.SameControl (decSym E S) (decSym E' S') :=
  { h with
    rxFirstDone_eq := rfl
    rxSymCnt_eq := by simp only [decSym_rxSymCnt, hE, h.rxSymCnt_eq] }

/-- Whether a decode delivers a vector, and of which size, is a matter of control elements (R163, R168). -/
theorem decEvents_sizes_eq : (decEvents E' S').map List.length = (decEvents E S).map List.length := by
  unfold decEvents
  rw [h.rxFirstDone_eq]
  split
  · simp only [List.map_cons, decodedDv_length, hE, List.map_nil]
  · rfl

end

theorem storeSample_sameControl (h : Inst.SameControl S S') (x : R) (x' : R') :
    Inst.SameControl (storeSample S x) (storeSample S' x') :=
  { h with rxIdx_eq := congrArg (· + 1) h.rxIdx_eq }

/-- `RX.PUSH` in progress: the instances agree, and the Data Vectors delivered so far have the same sizes. -/
def SamePushed (acc : Inst R × List (List Byte)) (acc' : Inst R' × List (List Byte)) : Prop :=
  Inst.SameControl acc.1 acc'.1 ∧ acc'.2.map List.length = acc.2.map List.length

/-- One turn of the loop: the decode trigger is the full buffer, whatever the two samples are (R198). -/
theorem pushSample_samePushed (hE : E'.cfg = E.cfg) {acc : Inst R × List (List Byte)}
    {acc' : Inst R' × List (List Byte)} (h : SamePushed acc acc') (x : R) (x' : R') :
    SamePushed (pushSample E acc x) (pushSample E' acc' x') := by
  obtain ⟨hS, hev⟩ := h
  have hstore := storeSample_sameControl hS x x'
  by_cases hfull : (storeSample acc.1 x).rxIdx = E.cfg.n
  · have hfull' : (storeSample acc'.1 x').rxIdx = E'.cfg.n := by rw [hstore.rxIdx_eq, hfull, hE]
    simp only [pushSample, if_pos hfull, if_pos hfull']
    refine ⟨{ decSym_sameControl hE hstore with rxIdx_eq := rfl }, ?_⟩
    simp only [List.map_append, hev, decEvents_sizes_eq hE hstore]
  · have hfull' : ¬ (storeSample acc'.1 x').rxIdx = E'.cfg.n := by rwa [hstore.rxIdx_eq, hE]
    simp only [pushSample, if_neg hfull, if_neg hfull']
    exact ⟨hstore, hev⟩

/-- The loop over two blocks of the same number of samples. -/
theorem pushSample_foldl_samePushed (hE : E'.cfg = E.cfg) {blk : List R} :
    ∀ {blk' : List R'} {acc : Inst R × List (List Byte)} {acc' : Inst R' × List (List Byte)},
      blk'.length = blk.length → SamePushed acc acc' →
      SamePushed (blk.foldl (pushSample E) acc) (blk'.foldl (pushSample E') acc') := by
  induction blk with
  | nil =>
    intro blk' acc acc' hlen h
    rw [List.eq_nil_of_length_eq_zero hlen]
    exact h
  | cons x t ih =>
    intro blk' acc acc' hlen h
    cases blk' with
    | nil => simp at hlen
    | cons x' t' =>
      rw [List.foldl_cons, List.foldl_cons]
      exact ih (Nat.succ.inj hlen) (pushSample_samePushed hE h x x')

section
variable (X : Env R) (X' : Env R') {s : Sys R} {s' : Sys R'} (h : Sys.SameControl s s')
include h

theorem runTxStep_sameControl : Sys.SameControl (runTxStep X s) (runTxStep X' s') := by
  have hE : (X'.build s'.cfg).cfg = (X.build s.cfg).cfg := h.cfg_eq
  have hdv : readDatasource s'.stepNo (layout s'.cfg).dvlen s'.ds =
      readDatasource s.stepNo (layout s.cfg).dvlen s.ds := by
    rw [h.stepNo_eq, h.cfg_eq, h.ds_eq]
  refine finish_sameControl h (hdv ▸ txStep_sameControl hE h.inst _) ?_
  simp only [ResponseOf.control, Option.map_some, txBlock_length, hE, txFetches_eq_of_sameControl hE h.inst,
    List.map_nil]

theorem runRxPush_sameControl (v : Bool) : Sys.SameControl (runRxPush X v s) (runRxPush X' v s') := by
  have hlen : (rxBlock X' v s').length = (rxBlock X v s).length := by
    rw [rxBlock_length, rxBlock_length, h.cfg_eq]
  obtain ⟨hS, hev⟩ := pushSample_foldl_samePushed (E := X.build s.cfg) (E' := X'.build s'.cfg) h.cfg_eq hlen
    (show SamePushed (s.inst, []) (s'.inst, []) from ⟨h.inst, rfl⟩)
  refine finish_sameControl h hS ?_
  simp only [ResponseOf.control, rxPush, hev, Option.map_none]

/-- Every command: which of its ways it takes, and what it writes, is a matter of control elements. -/
theorem exec_sameControl (i : Instr) : Sys.SameControl (s.exec X i) (s'.exec X' i) := by
  cases i with
  | nop => exact finish_sameControl h h.inst rfl
  | rst =>
    rw [Sys_exec_rst, Sys_exec_rst, h.cfg_eq]
    exact finish_sameControl h (resetInst_sameControl _ _ _ _) rfl
  | txtick a =>
    rw [Sys_exec_txtick, Sys_exec_txtick, h.inst.active_eq]
    split
    · exact raise_sameControl h _
    · split
      · exact raise_sameControl h _
      · exact runTxStep_sameControl X X' h
  | rxtick v =>
    rw [Sys_exec_rxtick, Sys_exec_rxtick, h.inst.active_eq]
    split
    · exact raise_sameControl h _
    · exact runRxPush_sameControl X X' h v
  | rdsts => exact answerWord_sameControl h (by rw [h.cfg_eq, h.inst.statusWord])
  | rdtxc => exact answerWord_sameControl h (by rw [h.inst.txSymCnt_eq])
  | rdrxc => exact answerWord_sameControl h (by rw [h.inst.rxSymCnt_eq])
  | rdplt p =>
    rw [Sys_exec_rdplt, Sys_exec_rdplt, h.cfg_eq]
    split
    · exact raise_sameControl h _
    · exact finish_sameControl h h.inst rfl
  | reserved x => exact raise_sameControl h _

/-- Every step: the pending words are the same, so both blocks decode the same command. -/
theorem step_sameControl : Sys.SameControl (s.step X) (s'.step X') := by
  have hport := h.port_eq
  cases hp : s.port with
  | nil =>
    have hp' : s'.port = [] := by simpa [hp] using hport
    rwa [Sys_step_idle X hp, Sys_step_idle X' hp']
  | cons c rest =>
    rw [hp, List.map_cons, List.map_eq_cons_iff] at hport
    obtain ⟨c', rest', hp', hc, hrest⟩ := hport
    have haccept := accept_sameControl h hc hrest
    have hword : c'.word = c.word := congrArg Prod.fst hc
    cases hd : decode c.word with
    | ok i =>
      rw [Sys_step_word X hp hd, Sys_step_word X' hp' (by rw [hword, hd])]
      exact exec_sameControl X X' haccept i
    | error e =>
      rw [Sys_step_rejected X hp hd, Sys_step_rejected X' hp' (by rw [hword, hd])]
      exact raise_sameControl haccept _

end

end

/-- Settles O60: agreement on what controls the block is kept by every step (`step_sameControl`). -/
theorem sequencingIgnoresSampleValues : Obligations.SequencingIgnoresSampleValues := by
  intro R R' _ _ _ _ _ _ _ _ _ _ _ _ _ _ X X' s s' h
  exact control_eq_iff.2 (step_sameControl X X' (control_eq_iff.1 h))

end Sys2Proof.Machine
end

section
/-! PROOFS. The invariant (R38) over any ordered field with numerics that meet `AngleLaws`: reset establishes it, and
every command and every step keep it. The numerics of the reference semantics (R8) do. -/

set_option linter.unusedSectionVars false

namespace Sys2Proof.Machine

/-! ## Angles and the pilot averages (R164, R181) -/

section
variable {R : Type} [Field R] [LinearOrder R] [IsStrictOrderedRing R]

/-- What R8 asks of the angles of a numerics record, and all that the invariant needs of one. -/
structure AngleLaws (m : Num R) : Prop where
  pi_pos : 0 < m.pi
  atan2_range : ∀ y x : R, -m.pi ≤ m.atan2 y x ∧ m.atan2 y x ≤ m.pi

variable {m : Num R}

/-- `NORM` brings the difference of two angles into `[-PI, PI)` (R164). -/
theorem normAngle_sub_range (hpi : 0 < m.pi) {a b : R} (ha : -m.pi ≤ a ∧ a ≤ m.pi) (hb : -m.pi ≤ b ∧ b ≤ m.pi) :
    -m.pi ≤ normAngle m (a - b) ∧ normAngle m (a - b) < m.pi := by
  obtain ⟨ha1, ha2⟩ := ha
  obtain ⟨hb1, hb2⟩ := hb
  have htwo : m.twoPi = m.pi + m.pi := rfl
  unfold normAngle
  rw [htwo]
  split
  · constructor <;> linarith
  · split
    · constructor <;> linarith
    · constructor <;> linarith

theorem pilotDiff_range (hm : AngleLaws m) (y1 y2 : Cpx R) :
    -m.pi ≤ pilotDiff m y1 y2 ∧ pilotDiff m y1 y2 < m.pi :=
  normAngle_sub_range hm.pi_pos (hm.atan2_range y2.im y2.re) (hm.atan2_range y1.im y1.re)

/-- A smoothing step is a weighted mean of the average and the difference, so it stays between the same bounds; the old
average has a positive weight, which keeps the lower bound strict (R181 (d)). -/
theorem smooth_range (h0 : 0 ≤ m.alpha) (h1 : m.alpha < 1) {avg pd : R} (havg : -m.pi < avg ∧ avg < m.pi)
    (hpd : -m.pi ≤ pd ∧ pd < m.pi) : -m.pi < smooth m avg pd ∧ smooth m avg pd < m.pi := by
  obtain ⟨ha1, ha2⟩ := havg
  obtain ⟨hp1, hp2⟩ := hpd
  have hmean : smooth m avg pd = (1 - m.alpha) * avg + m.alpha * pd := by rw [smooth]; ring
  have hlow : 0 < (1 - m.alpha) * (avg + m.pi) := mul_pos (by linarith) (by linarith)
  have hlow' : 0 ≤ m.alpha * (pd + m.pi) := mul_nonneg h0 (by linarith)
  have hhigh : 0 < (1 - m.alpha) * (m.pi - avg) := mul_pos (by linarith) (by linarith)
  have hhigh' : 0 ≤ m.alpha * (m.pi - pd) := mul_nonneg h0 (by linarith)
  rw [hmean]
  constructor <;> linarith

theorem pltUpd_range (hm : AngleLaws m) (h0 : 0 ≤ m.alpha) (h1 : m.alpha < 1) (y1 y2 : List (Cpx R)) {avg : List R}
    (havg : ∀ v ∈ avg, -m.pi < v ∧ v < m.pi) : ∀ v ∈ pltUpd m y1 y2 avg, -m.pi < v ∧ v < m.pi := by
  intro v hv
  obtain ⟨p, hp, rfl⟩ := List.mem_mapIdx.1 hv
  exact smooth_range h0 h1 (havg _ (List.getElem_mem hp)) (pilotDiff_range hm _ _)

theorem dataAngles_range (hm : AngleLaws m) (y : Demuxed R) : ∀ a ∈ dataAngles m y, -m.pi ≤ a ∧ a ≤ m.pi := by
  intro a ha
  obtain ⟨z, -, rfl⟩ := List.mem_map.1 ha
  exact hm.atan2_range z.im z.re

end

theorem refNum_angleLaws {z : ℝ} (h1 : -Real.pi ≤ z) (h2 : z ≤ Real.pi) : AngleLaws (refNum z) :=
  ⟨by rw [refNum_pi]; exact Real.pi_pos, refNum_atan2_range h1 h2⟩

/-! ## Lengths and widths -/

section
variable {R : Type} [Zero R] [One R] [Add R] [Sub R] [Neg R] [Mul R] [LinearOrder R] {E : Build R} {S : Inst R}

theorem resetInst_shape (c : Cfg) (b : Nat → Byte) (p : Nat → R) : Inst.Shape c (resetInst c b p) where
  txCode_length := by simp
  txDv_length := by simp
  rxPhase_length := by simp
  pltAvg_length := by simp
  txSymCnt_lt := Nat.two_pow_pos _
  rxSymCnt_lt := Nat.two_pow_pos _
  txBuf_wf := Mem.wf_nil
  rxBuf_wf := Mem.wf_nil
  txBuf_lt := by simp
  rxBuf_lt := by simp

theorem txEncoded_shape (h : Inst.Shape E.cfg S) : Inst.Shape E.cfg (txEncoded E S) := by
  by_cases hseg : S.txSeg = 0
  · rw [txEncoded_fadeIn E S hseg]
    exact { h with
      txCode_length := (sentCodes_length E S).trans h.txCode_length
      txSymCnt_lt := bumpCounter_lt _ _
      txBuf_wf := Mem.wf_ofList _
      txBuf_lt := fun _ he => (Mem.lt_of_mem_ofList he).trans_eq (inverse_length _ _) }
  · rwa [txEncoded_later E S hseg]

theorem txStep_shape (h : Inst.Shape E.cfg S) {dv : List Byte} (hdv : dv.length = (layout E.cfg).dvlen) :
    Inst.Shape E.cfg (txStep E dv S) := by
  have henc := txEncoded_shape h
  refine { henc with txDv_length := ?_ }
  rw [txStep_txDv]
  split
  · exact hdv
  · exact henc.txDv_length

theorem decSym_shape (h : Inst.Shape E.cfg S) : Inst.Shape E.cfg (decSym E S) :=
  { h with
    rxPhase_length := by simp [dataAngles, demux]
    pltAvg_length := by simpa [pltUpd] using h.pltAvg_length
    rxSymCnt_lt := bumpCounter_lt _ _
    rxBuf_wf := Mem.wf_ofList _
    rxBuf_lt := fun _ he => (Mem.lt_of_mem_ofList he).trans_eq (forward_length _ _) }

theorem storeBlock_shape {c : Cfg} (h : Inst.Shape c S) {blk : List R} (hn : S.rxIdx + blk.length ≤ c.n) :
    Inst.Shape c (storeBlock S blk) := by
  rw [storeBlock_eq]
  exact { h with
    rxBuf_wf := storeBlock_wf blk S h.rxBuf_wf
    rxBuf_lt := storeBlock_lt blk S h.rxBuf_lt hn }

end

/-! ## Reset, and commands that leave the block's elements as they are -/

section
variable {R : Type} [Field R] [LinearOrder R] [IsStrictOrderedRing R] {m : Cfg → Num R} {s t : Sys R}

/-- The invariant speaks of the configuration and the elements of `S` only. -/
theorem invariant_congr (h : Sys.Invariant m s) (hcfg : t.cfg = s.cfg) (hinst : t.inst = s.inst) :
    Sys.Invariant m t := by
  cases s
  cases t
  cases hcfg
  cases hinst
  exact { h with }

/-- With an invalid configuration the unspecified elements have length 0, so every reset is power-on (R245, R271). -/
theorem resetInst_invalid {c : Cfg} (h : c.valid = false) (b : Nat → Byte) (p : Nat → R) :
    resetInst c b p = powerOnInst c := by
  simp [powerOnInst, resetInst, layout_invalid h, emptyLayout]

/-- Reset establishes the invariant, whatever the unspecified elements hold (R39, R271). -/
theorem invariant_of_reset (hm : ∀ c, AngleLaws (m c)) {b : Nat → Byte} {p : Nat → R}
    (h : s.inst = resetInst s.cfg b p) : Sys.Invariant m s := by
  have hvalid (hact : s.inst.active = true) : ValidFacts s.cfg := by
    rw [h] at hact
    exact (valid_iff _).1 hact
  exact
    { shape := h ▸ resetInst_shape s.cfg b p
      active_eq := by rw [h, resetInst_active]
      txSeg_lt := fun hact => by rw [h]; exact Nat.lt_of_lt_of_le Nat.two_pos (hvalid hact).k_ge
      rxIdx_lt := fun hact => by
        obtain ⟨j, hj⟩ := (hvalid hact).pow2
        rw [h, hj]
        exact Nat.two_pow_pos j
      rxIdx_dvd := fun _ => by rw [h]; exact dvd_zero _
      prefetched := fun _ => by rw [h, resetInst_txSeg]
      firstSymbol := fun _ _ _ => by rw [h]; exact ⟨rfl, rfl, rfl⟩
      bootstrap := fun _ => by rw [h]; exact ⟨rfl, rfl⟩
      inactive := fun hact => by rw [h] at hact ⊢; exact resetInst_invalid hact b p
      rxPhase_range := fun hdone => by rw [h] at hdone; cases hdone
      pltAvg_range := fun _ _ v hv => by
        rw [h] at hv
        rw [List.eq_of_mem_replicate hv]
        have := (hm s.cfg).pi_pos
        exact ⟨neg_lt_zero.2 this, this⟩ }

end

/-! ## The transmit tick -/

section
variable {R : Type} [Zero R] [One R] [Add R] [Sub R] [Neg R] [Mul R] [LinearOrder R] (E : Build R) {S : Inst R}

@[simp] theorem txEncoded_active : (txEncoded E S).active = S.active := by unfold txEncoded; split <;> rfl
@[simp] theorem txEncoded_rxPhase : (txEncoded E S).rxPhase = S.rxPhase := by unfold txEncoded; split <;> rfl
@[simp] theorem txEncoded_rxFirstDone : (txEncoded E S).rxFirstDone = S.rxFirstDone := by
  unfold txEncoded; split <;> rfl
@[simp] theorem txEncoded_rxIdx : (txEncoded E S).rxIdx = S.rxIdx := by unfold txEncoded; split <;> rfl
@[simp] theorem txEncoded_pltAvg : (txEncoded E S).pltAvg = S.pltAvg := by unfold txEncoded; split <;> rfl
@[simp] theorem txEncoded_rxSymCnt : (txEncoded E S).rxSymCnt = S.rxSymCnt := by unfold txEncoded; split <;> rfl

/-- The encoder uses the prefetched Data Vector up, and past `FADE_IN` there is none (R24). -/
theorem txEncoded_txDvValid (h : S.txDvValid = true → S.txSeg = 0) : (txEncoded E S).txDvValid = false := by
  by_cases hseg : S.txSeg = 0
  · rw [txEncoded_fadeIn E S hseg, encSym_txDvValid]
  · rw [txEncoded_later E S hseg]
    exact Bool.eq_false_iff.2 (mt h hseg)

/-- After a transmit tick a Data Vector waits exactly when the tick fetched one (R191, R194). -/
theorem txStep_txDvValid_eq (h : S.txDvValid = true → S.txSeg = 0) (dv : List Byte) :
    (txStep E dv S).txDvValid = txFetches E S := by
  rw [txStep_txDvValid, txEncoded_txDvValid E h]
  cases txFetches E S <;> rfl

/-- The tick that fetches is the one that ends the symbol (R191, R194). -/
theorem txStep_txSeg_eq_zero_iff (h : S.txSeg < E.cfg.k) (dv : List Byte) :
    (txStep E dv S).txSeg = 0 ↔ txFetches E S = true := by
  rw [txStep_txSeg, txFetches, decide_eq_true_eq]
  by_cases hlast : S.txSeg + 1 = E.cfg.k
  · rw [hlast, Nat.mod_self]
    omega
  · rw [Nat.mod_eq_of_lt (by omega)]
    omega

end

section
variable {R : Type} [Field R] [LinearOrder R] [IsStrictOrderedRing R] {X : Env R} {s : Sys R}
  (h : Sys.Invariant X.num s) (hact : s.inst.active = true)
include h hact

theorem validFacts_of_active : ValidFacts s.cfg := (valid_iff _).1 (h.active_eq ▸ hact)

/-- A transmit tick keeps the invariant: it starts a new symbol exactly when it fetches a Data Vector. -/
theorem runTxStep_invariant : Sys.Invariant X.num (runTxStep X s) := by
  have hvalid := validFacts_of_active h hact
  have hnew : (runTxStep X s).inst.txSeg = 0 ↔ (runTxStep X s).inst.txDvValid = true := by
    rw [runTxStep_inst, txStep_txDvValid_eq _ h.prefetched]
    exact txStep_txSeg_eq_zero_iff (X.build s.cfg) (h.txSeg_lt hact) _
  exact
    { shape := txStep_shape (E := X.build s.cfg) h.shape (readDatasource_length _ _ _)
      active_eq := by simpa using h.active_eq
      txSeg_lt := fun _ => Nat.mod_lt _ (Nat.lt_of_lt_of_le Nat.two_pos hvalid.k_ge)
      rxIdx_lt := by simpa using h.rxIdx_lt
      rxIdx_dvd := by simpa using h.rxIdx_dvd
      prefetched := hnew.2
      firstSymbol := fun _ hseg hdv => absurd (hnew.1 hseg) (Bool.eq_false_iff.1 hdv)
      bootstrap := fun hdone => by
        obtain ⟨hplt, hcnt⟩ := h.bootstrap (by simpa using hdone)
        exact ⟨by simpa using hplt, by simpa using hcnt⟩
      inactive := fun hoff => by simp [hact] at hoff
      rxPhase_range := by simpa using h.rxPhase_range
      pltAvg_range := by simpa using h.pltAvg_range }

/-! ## The receive tick -/

/-- The fill index is a whole number of blocks below `N`, so one more block fits (R197). -/
theorem rxIdx_add_block_le : s.inst.rxIdx + s.cfg.b ≤ s.cfg.n :=
  Nat.le_of_lt_add_of_dvd (Nat.add_lt_add_right (h.rxIdx_lt hact) _)
    (Nat.dvd_add (h.rxIdx_dvd hact) (Nat.dvd_refl _)) (validFacts_of_active h hact).b_dvd

/-- A block that does not fill the buffer is stored, which keeps the invariant. -/
theorem storeBlock_invariant {blk : List R} (hlen : blk.length = s.cfg.b) (hn : s.inst.rxIdx + s.cfg.b < s.cfg.n) :
    Sys.Invariant X.num { s with inst := storeBlock s.inst blk } := by
  have hshape : Inst.Shape s.cfg (storeBlock s.inst blk) := storeBlock_shape h.shape (hlen ▸ hn.le)
  rw [storeBlock_eq] at hshape ⊢
  exact
    { h with
      shape := hshape
      rxIdx_lt := fun _ => hlen ▸ hn
      rxIdx_dvd := fun _ => Nat.dvd_add (h.rxIdx_dvd hact) (dvd_of_eq hlen.symm)
      firstSymbol := fun _ hseg hdv => { h.firstSymbol hact hseg hdv with }
      bootstrap := fun hdone => { h.bootstrap hdone with }
      inactive := fun hoff => absurd (hact.symm.trans hoff) (by decide) }

/-- A block that fills the buffer is stored and decoded, which keeps the invariant: the new angles are angles of
`ATAN2`, and each new average lies between the old one and a normalised difference. -/
theorem decodeBlock_invariant (hX : AngleLaws (X.num s.cfg)) {blk : List R}
    (hn : s.inst.rxIdx + blk.length = s.cfg.n) :
    Sys.Invariant X.num
      { s with inst := { decSym (X.build s.cfg) (storeBlock s.inst blk) with rxIdx := 0 } } := by
  have hpos : 0 < s.cfg.n := (Nat.zero_le _).trans_lt (h.rxIdx_lt hact)
  have hshape : Inst.Shape s.cfg (decSym (X.build s.cfg) (storeBlock s.inst blk)) :=
    decSym_shape (E := X.build s.cfg) (storeBlock_shape h.shape hn.le)
  rw [storeBlock_eq] at hshape ⊢
  exact
    { h with
      shape := { hshape with }
      rxIdx_lt := fun _ => hpos
      rxIdx_dvd := fun _ => dvd_zero _
      firstSymbol := fun _ hseg hdv => { h.firstSymbol hact hseg hdv with }
      bootstrap := fun hdone => Bool.noConfusion hdone
      inactive := fun hoff => absurd (hact.symm.trans hoff) (by decide)
      rxPhase_range := fun _ => dataAngles_range hX _
      pltAvg_range := fun h0 h1 => pltUpd_range hX h0 h1 _ _ (h.pltAvg_range h0 h1) }

/-- A receive tick keeps the invariant: its block fills the buffer exactly or leaves room for another. -/
theorem runRxPush_invariant (hX : AngleLaws (X.num s.cfg)) (v : Bool) : Sys.Invariant X.num (runRxPush X v s) := by
  have hlen := rxBlock_length X v s
  rcases (rxIdx_add_block_le h hact).lt_or_eq with hn | hn
  · refine invariant_congr (storeBlock_invariant h hact hlen hn) rfl ?_
    rw [runRxPush_inst, rxPush_fill _ _ _ (hlen.symm ▸ hn)]
  · have hne : rxBlock X v s ≠ [] :=
      List.ne_nil_of_length_pos (hlen.symm ▸ (validFacts_of_active h hact).b_pos)
    have hn' : s.inst.rxIdx + (rxBlock X v s).length = s.cfg.n := hlen.symm ▸ hn
    refine invariant_congr (decodeBlock_invariant h hact hX hn') rfl ?_
    rw [runRxPush_inst, rxPush_decode _ _ _ hne hn']

end

/-! ## Every command and every step -/

section
variable {R : Type} [Field R] [LinearOrder R] [IsStrictOrderedRing R] {X : Env R} {s : Sys R}
  (hX : ∀ c, AngleLaws (X.num c)) (h : Sys.Invariant X.num s)
include hX h

/-- Every command keeps the invariant: all but `RST` and the two ticks leave `S` as it is. -/
theorem exec_invariant (i : Instr) : Sys.Invariant X.num (s.exec X i) := by
  cases i with
  | nop => exact invariant_congr h rfl rfl
  | rst => exact invariant_of_reset hX rfl
  | txtick a =>
    rcases Sys_txtick_cases X (s := s) a with ⟨-, he⟩ | ⟨-, -, he⟩ | ⟨hact, -, he⟩
    · exact he ▸ invariant_congr h rfl rfl
    · exact he ▸ invariant_congr h rfl rfl
    · exact he ▸ runTxStep_invariant h hact
  | rxtick v =>
    rcases Sys_rxtick_cases X (s := s) v with ⟨-, he⟩ | ⟨hact, he⟩
    · exact he ▸ invariant_congr h rfl rfl
    · exact he ▸ runRxPush_invariant h hact (hX _) v
  | rdsts => exact invariant_congr h rfl rfl
  | rdtxc => exact invariant_congr h rfl rfl
  | rdrxc => exact invariant_congr h rfl rfl
  | rdplt p =>
    rcases Sys_rdplt_cases X (s := s) p with ⟨-, he⟩ | ⟨-, he⟩
    · exact he ▸ invariant_congr h rfl rfl
    · exact he ▸ invariant_congr h rfl rfl
  | reserved x => exact invariant_congr h rfl rfl

/-- Every step keeps the invariant (R38), over any ordered field with numerics that meet `AngleLaws`. -/
theorem Sys_step_invariant : Sys.Invariant X.num (s.step X) := by
  rcases Sys_step_cases X (s := s) with ⟨-, he⟩ | ⟨c, rest, i, -, -, he⟩ | ⟨c, rest, e, -, -, he⟩
  · rwa [he]
  · have haccept : Sys.Invariant X.num (s.accept c rest) := invariant_congr h rfl rfl
    exact he ▸ exec_invariant hX haccept i
  · exact he ▸ invariant_congr h rfl rfl

end

/-- Settles O59: the real numbers with the principal angle meet `AngleLaws`, so reset establishes the invariant
(`invariant_of_reset`) and every step keeps it (`Sys_step_invariant`). -/
theorem referenceStepKeepsInvariant : Obligations.ReferenceStepKeepsInvariant := by
  intro z h1 h2
  have hlaws := refNum_angleLaws h1 h2
  exact ⟨fun _ => invariant_of_reset (fun _ => hlaws) rfl,
    fun x phase sample _ h => Sys_step_invariant (X := refEnv z x phase sample) (fun _ => hlaws) h⟩

end Sys2Proof.Machine
end

section
/-! PROOFS. The state `S` (10_state.md): power-on and every step of the machine meet the invariant (R38,
R39), no step writes the configuration (R34), what the two ticks leave unchanged (R20 to R32), and the first decode
reads no stored angle (R27). -/

set_option linter.unusedSectionVars false

namespace Sys2Proof.Machine

/-! ## The invariant of the machine -/

/-- The machine's free constants are brought into the ranges R8 asks for. -/
theorem num_angleLaws (c : Cfg) : AngleLaws (num c) := ⟨num_pi_pos c, num_atan2_range c⟩

theorem powerOn_invariant (c : Cfg) : Invariant (State.powerOn c) := invariant_of_reset num_angleLaws rfl

/-- Settles O1: power-on is a reset of `S` (`powerOn_invariant`), and `State.reset` is one power-on. -/
theorem resetMeetsInvariant : Obligations.ResetMeetsInvariant :=
  ⟨powerOn_invariant defaultCfg, powerOn_invariant⟩

/-- Settles O2: the machine's step is the block's step (`step_eq`), which keeps the invariant for all numerics with
`AngleLaws` (`Sys_step_invariant`). -/
theorem stepKeepsInvariant : Obligations.StepKeepsInvariant := by
  intro s t hs hstep
  rw [step_eq] at hstep
  cases hstep
  exact Sys_step_invariant (X := machineEnv) num_angleLaws hs

/-! ## What every command leaves unchanged around `S` -/

section
variable {R : Type} [Zero R] [One R] [Add R] [Sub R] [Neg R] [Mul R] [LinearOrder R] (X : Env R) (s : Sys R)

/-- Every command ends with `Sys.finish`: it writes `S`, the response and the input ports, nothing else. -/
theorem Sys_exec_eq_finish (i : Instr) : ∃ S r, s.exec X i = s.finish S r := by
  cases i with
  | txtick a =>
    rcases Sys_txtick_cases X (s := s) a with ⟨-, he⟩ | ⟨-, -, he⟩ | ⟨-, -, he⟩ <;> exact ⟨_, _, he⟩
  | rxtick v => rcases Sys_rxtick_cases X (s := s) v with ⟨-, he⟩ | ⟨-, he⟩ <;> exact ⟨_, _, he⟩
  | rdplt p => rcases Sys_rdplt_cases X (s := s) p with ⟨-, he⟩ | ⟨-, he⟩ <;> exact ⟨_, _, he⟩
  | nop | rst | rdsts | rdtxc | rdrxc | reserved _ => exact ⟨_, _, rfl⟩

@[simp] theorem Sys_exec_cfg (i : Instr) : (s.exec X i).cfg = s.cfg := by
  obtain ⟨S, r, he⟩ := Sys_exec_eq_finish X s i
  rw [he, finish_cfg]

@[simp] theorem Sys_exec_port (i : Instr) : (s.exec X i).port = s.port := by
  obtain ⟨S, r, he⟩ := Sys_exec_eq_finish X s i
  rw [he, finish_port]

@[simp] theorem Sys_step_cfg : (s.step X).cfg = s.cfg := by
  rcases Sys_step_cases X (s := s) with ⟨-, he⟩ | ⟨c, rest, i, -, -, he⟩ | ⟨c, rest, e, -, -, he⟩ <;> simp [he]

end

/-- Settles O5: no command writes the configuration (`Sys_exec_cfg`), so no step does (`Sys_step_cfg`). -/
theorem configurationNeverChanges : Obligations.ConfigurationNeverChanges := by
  intro s t hstep
  rw [step_eq] at hstep
  cases hstep
  exact Sys_step_cfg machineEnv s.toSys

section
variable {s t : State}

theorem exec_sameAround {i : Instr} (h : exec i s = .next t) : SameAround s t where
  cfg_eq := by rw [exec_next_iff.1 h, Sys_exec_cfg]
  port_eq := by rw [exec_next_iff.1 h, Sys_exec_port]

/-! ## `S` after a tick -/

/-- A transmit tick is skipped or runs `TX.STEP` (R222). -/
theorem exec_txtick_inst {a : Bool} (h : exec (.txtick a) s = .next t) :
    t.inst = s.inst ∨
      t.inst = txStep (build s.cfg) (readDatasource s.stepNo (layout s.cfg).dvlen s.ds) s.inst := by
  have ht := exec_next_iff.1 h
  rcases Sys_txtick_cases machineEnv (s := s.toSys) a with ⟨-, he⟩ | ⟨-, -, he⟩ | ⟨-, -, he⟩
  · exact .inl (by rw [ht, he, raise_inst])
  · exact .inl (by rw [ht, he, raise_inst])
  · exact .inr (by rw [ht, he, runTxStep_inst, machineEnv_build])

/-- A receive tick is skipped or runs `RX.PUSH` (R223). -/
theorem exec_rxtick_inst {v : Bool} (h : exec (.rxtick v) s = .next t) :
    t.inst = s.inst ∨ t.inst = (rxPush (build s.cfg) (rxBlock machineEnv v s.toSys) s.inst).1 := by
  have ht := exec_next_iff.1 h
  rcases Sys_rxtick_cases machineEnv (s := s.toSys) v with ⟨-, he⟩ | ⟨-, he⟩
  · exact .inl (by rw [ht, he, raise_inst])
  · exact .inr (by rw [ht, he, runRxPush_inst, machineEnv_build])

end

theorem Inst.SameTx.refl (S : Inst Rat) : Inst.SameTx S S := ⟨rfl, rfl, rfl, rfl, rfl, rfl⟩

theorem Inst.SameRx.refl (S : Inst Rat) : Inst.SameRx S S := ⟨rfl, rfl, rfl, rfl, rfl, rfl⟩

/-! ## The transmit tick -/

section
variable {R : Type} [Zero R] [One R] [Add R] [Sub R] [Neg R] [Mul R] [LinearOrder R] (E : Build R) {S : Inst R}

@[simp] theorem txEncoded_rxBuf : (txEncoded E S).rxBuf = S.rxBuf := by unfold txEncoded; split <;> rfl
@[simp] theorem txEncoded_txDv : (txEncoded E S).txDv = S.txDv := by unfold txEncoded; split <;> rfl

/-- The prefetched bytes change at `FADE_OUT` only (R191, R194). -/
theorem txStep_txDv_of_ne (dv : List Byte) (h : S.txSeg ≠ E.cfg.k - 1) : (txStep E dv S).txDv = S.txDv := by
  simp [txFetches, h]

/-- Between `FADE_IN` and `FADE_OUT` no Data Vector is used up and none is fetched (R191, R193). -/
theorem txStep_txDvValid_of_ne (dv : List Byte) (h0 : S.txSeg ≠ 0) (h : S.txSeg ≠ E.cfg.k - 1) :
    (txStep E dv S).txDvValid = S.txDvValid := by
  simp [txFetches, h, h0]

end

theorem txStep_sameRx (E : Build Rat) (dv : List Byte) (S : Inst Rat) : Inst.SameRx S (txStep E dv S) where
  rxPhase_eq := by simp
  rxFirstDone_eq := by simp
  rxIdx_eq := by simp
  rxBuf_eq := by simp
  pltAvg_eq := by simp
  rxSymCnt_eq := by simp

/-- Settles O28: a skipped tick changes nothing of `S`; one that runs leaves the receive half
(`txStep_sameRx`), and `TX.STEP` reads which elements it writes off `tx_seg`. -/
theorem transmitTickFrame : Obligations.TransmitTickFrame := by
  intro a s t h
  have haround := exec_sameAround h
  rcases exec_txtick_inst h with hinst | hinst
  · rw [hinst]
    exact ⟨.refl _, rfl, haround, fun _ => ⟨rfl, rfl, fun _ => rfl⟩, fun _ => rfl, fun _ _ => rfl⟩
  · rw [hinst]
    refine ⟨txStep_sameRx _ _ _, by simp, haround, fun hseg => ?_, txStep_txDv_of_ne (build s.cfg) _,
      txStep_txDvValid_of_ne (build s.cfg) _⟩
    simp [hseg]

/-! ## The receive tick -/

theorem rxPush_sameTx (E : Build Rat) (blk : List Rat) (S : Inst Rat) : Inst.SameTx S (rxPush E blk S).1 := by
  obtain ⟨hcode, hseg, hdv, hvalid, hbuf, hcnt, -, -⟩ := pushSample_foldl_tx E blk (S, [])
  exact ⟨hcode, hseg, hdv, hvalid, hbuf, hcnt⟩

section
variable {R : Type} [Zero R] [One R] [Add R] [Sub R] [Neg R] [Mul R] [LinearOrder R] (E : Build R) (blk : List R)
  (S : Inst R)

@[simp] theorem rxPush_active : (rxPush E blk S).1.active = S.active := by
  obtain ⟨-, -, -, -, -, -, hact, -⟩ := pushSample_foldl_tx E blk (S, [])
  exact hact

theorem rxPush_rxFirstDone (h : S.rxFirstDone = true) : (rxPush E blk S).1.rxFirstDone = true := by
  obtain ⟨-, -, -, -, -, -, -, hdone⟩ := pushSample_foldl_tx E blk (S, [])
  exact hdone h

end

/-- Settles O29: `RX.PUSH` works on the receive half (`rxPush_sameTx`), and a block that does not fill the buffer is
only stored (`rxPush_fill`), in its own range of indices (`storeBlock_read`). -/
theorem receiveTickFrame : Obligations.ReceiveTickFrame := by
  intro v s t h
  have haround := exec_sameAround h
  rcases exec_rxtick_inst h with hinst | hinst
  · rw [hinst]
    exact ⟨.refl _, rfl, haround, fun _ => ⟨rfl, rfl, rfl, rfl, fun _ _ _ => rfl⟩⟩
  · rw [hinst]
    refine ⟨rxPush_sameTx _ _ _, rxPush_active _ _ _, haround, fun hn => ?_⟩
    have hlen := rxBlock_length machineEnv v s.toSys
    rw [rxPush_fill _ _ _ (hlen.symm ▸ hn), storeBlock_eq]
    refine ⟨rfl, rfl, rfl, rfl, fun hwf x hx => ?_⟩
    rw [storeBlock_read _ _ _ hwf, if_neg (hlen.symm ▸ hx)]

/-! ## The modes -/

/-- Settles O30: the commands other than `RST` and the ticks leave `S` as it is, `TX.STEP` leaves both modes,
and `RX.PUSH` leaves `active` and can only set `rx_first_done`. -/
theorem onlyResetWritesModes : Obligations.OnlyResetWritesModes := by
  intro i s t h hrst
  cases i with
  | rst => exact absurd rfl hrst
  | txtick a =>
    rcases exec_txtick_inst h with hinst | hinst
    · exact hinst ▸ ⟨rfl, id⟩
    · rw [hinst]
      exact ⟨by simp, by simp⟩
  | rxtick v =>
    rcases exec_rxtick_inst h with hinst | hinst
    · exact hinst ▸ ⟨rfl, id⟩
    · rw [hinst]
      exact ⟨rxPush_active _ _ _, rxPush_rxFirstDone _ _ _⟩
  | rdplt p =>
    rw [exec_next_iff.1 h]
    rcases Sys_rdplt_cases machineEnv (s := s.toSys) p with ⟨-, he⟩ | ⟨-, he⟩
    · exact he ▸ ⟨rfl, id⟩
    · exact he ▸ ⟨rfl, id⟩
  | nop | rdsts | rdtxc | rdrxc | reserved _ =>
    rw [exec_next_iff.1 h]
    exact ⟨rfl, id⟩

/-! ## The first decode (R27, R163) -/

section
variable {R : Type} [Zero R] [One R] [Add R] [Sub R] [Neg R] [Mul R] [LinearOrder R]

/-- Storing samples does not touch the stored angles, whatever they are. -/
theorem storeBlock_with_rxPhase (ph : List R) (blk : List R) : ∀ S : Inst R,
    storeBlock { S with rxPhase := ph } blk = { storeBlock S blk with rxPhase := ph } := by
  induction blk with
  | nil => exact fun _ => rfl
  | cons x t ih => exact fun S => ih (storeSample S x)

@[simp] theorem storeBlock_rxFirstDone (S : Inst R) (blk : List R) :
    (storeBlock S blk).rxFirstDone = S.rxFirstDone := by rw [storeBlock_eq]

/-- `DEC.SYM` writes every stored angle and reads none for the state it leaves (R162, R169). -/
theorem decSym_with_rxPhase (E : Build R) (S : Inst R) (ph : List R) :
    decSym E { S with rxPhase := ph } = decSym E S := rfl

theorem decSym_rxPhase_length (E : Build R) (S : Inst R) :
    (decSym E S).rxPhase.length = (layout E.cfg).d := by simp [dataAngles, demux]

/-- The bootstrap symbol is decoded into the state and delivered to nobody (R163). -/
theorem rxPush_bootstrap (E : Build R) (blk : List R) (S : Inst R) (h0 : blk ≠ [])
    (hn : S.rxIdx + blk.length = E.cfg.n) (hfirst : S.rxFirstDone = false) :
    rxPush E blk S = ({ decSym E (storeBlock S blk) with rxIdx := 0 }, []) := by
  rw [rxPush_decode E blk S h0 hn, decEvents, storeBlock_rxFirstDone, hfirst]
  rfl

/-- The bootstrap decode does the same whatever the stored angles were. -/
theorem rxPush_bootstrap_with_rxPhase (E : Build R) (blk : List R) (S : Inst R) (ph : List R) (h0 : blk ≠ [])
    (hn : S.rxIdx + blk.length = E.cfg.n) (hfirst : S.rxFirstDone = false) :
    rxPush E blk { S with rxPhase := ph } = rxPush E blk S := by
  rw [rxPush_bootstrap E blk S h0 hn hfirst, rxPush_bootstrap E blk { S with rxPhase := ph } h0 hn hfirst,
    storeBlock_with_rxPhase, decSym_with_rxPhase]

/-- A receive tick takes its block from the port: on another `S` it does the same if the loop does (R223). -/
theorem runRxPush_with_inst (X : Env R) (v : Bool) (s : Sys R) (S' : Inst R)
    (h : rxPush (X.build s.cfg) (rxBlock X v s) S' = rxPush (X.build s.cfg) (rxBlock X v s) s.inst) :
    runRxPush X v { s with inst := S' } = runRxPush X v s := by
  have hblock : rxBlock X v { s with inst := S' } = rxBlock X v s := rfl
  simp only [runRxPush, hblock, h, Sys.finish]

end

/-- Settles O52: the tick's block does not come from `S` (`runRxPush_with_inst`), and the loop over it does
the same with other stored angles (`rxPush_bootstrap_with_rxPhase`). -/
theorem bootstrapReadsNoStoredAngle : Obligations.BootstrapReadsNoStoredAngle := by
  intro v s ph hact hfirst hb hn
  have hlen := rxBlock_length machineEnv v s.toSys
  have hne : rxBlock machineEnv v s.toSys ≠ [] := List.ne_nil_of_length_pos (hlen.symm ▸ hb)
  have hn' : s.inst.rxIdx + (rxBlock machineEnv v s.toSys).length = s.cfg.n := hlen.symm ▸ hn
  have hpush := rxPush_bootstrap (build s.cfg) _ s.inst hne hn' hfirst
  have hinst : (runRxPush machineEnv v s.toSys).inst =
      { decSym (build s.cfg) (storeBlock s.inst (rxBlock machineEnv v s.toSys)) with rxIdx := 0 } :=
    congrArg Prod.fst hpush
  have hsame : runRxPush machineEnv v { s.toSys with inst := { s.inst with rxPhase := ph } } =
      runRxPush machineEnv v s.toSys :=
    runRxPush_with_inst _ v s.toSys _ (rxPush_bootstrap_with_rxPhase (build s.cfg) _ s.inst ph hne hn' hfirst)
  refine ⟨_, _, _, exec_rxtick_run v hact, exec_rxtick_run v hact, congrArg State.mk hsame, rfl,
    congrArg Prod.snd hpush, ?_, ?_⟩
  · rw [hinst]
    rfl
  · rw [hinst]
    exact decSym_rxPhase_length (build s.cfg) _

end Sys2Proof.Machine
end

section
/-! PROOFS. Memory (20_memory.md): the 2-bit fields of a Data Vector (R67, R68), and the Data Vectors a receive tick
delivers (R70 (b), R197). -/

set_option linter.unusedSectionVars false

namespace Sys2Proof.Machine

/-! ## The fields of a Data Vector -/

/-- The field mask of R67 and R68 has bits 1 and 0. -/
theorem getLsbD_three (i : Nat) : (3 : Byte).getLsbD i = decide (i < 2) :=
  Nat.testBit_two_pow_sub_one 2 i

theorem dvGet_toNat (dv : List Byte) (d : Nat) :
    (dvGet dv d).toNat = (dv.getD (d / 4) 0).toNat / 2 ^ fieldShift d % 4 := by
  have hmask (n : Nat) : n &&& 3 = n % 4 := Nat.and_two_pow_sub_one_eq_mod n 2
  simp [dvGet, Nat.shiftRight_eq_div_pow, hmask]

/-- Bit `i` of field `d` is bit `fieldShift d + i` of the byte the field lies in. -/
theorem dvGet_getLsbD (dv : List Byte) (d i : Nat) (hi : i < 2) :
    (dvGet dv d).getLsbD i = (dv.getD (d / 4) 0).getLsbD (fieldShift d + i) := by
  simp only [dvGet, BitVec.getLsbD_setWidth, BitVec.getLsbD_and, BitVec.getLsbD_ushiftRight, getLsbD_three, hi,
    decide_true, Bool.true_and, Bool.and_true]

/-- The byte `DVPUT` writes (R68), bit by bit: the low two bits of `v` at the field, the old byte elsewhere. -/
theorem putField_getLsbD (x v : Byte) {s j : Nat} (hj : j < 8) :
    ((x &&& ~~~((3 : Byte) <<< s)) ||| ((v &&& 3) <<< s)).getLsbD j =
      if s ≤ j ∧ j < s + 2 then v.getLsbD (j - s) else x.getLsbD j := by
  simp only [BitVec.getLsbD_or, BitVec.getLsbD_and, BitVec.getLsbD_not, BitVec.getLsbD_shiftLeft, getLsbD_three]
  by_cases hs : s ≤ j
  · by_cases hlt : j < s + 2
    · have hlow : j - s < 2 := by omega
      simp [hj, hs, hs.not_gt, hlt, hlow]
    · have hhigh : ¬ j - s < 2 := by omega
      simp [hj, hs, hlt, hhigh]
  · have hbelow : j < s := by omega
    simp [hj, hs, hbelow]

/-- Two fields of one byte do not overlap. -/
theorem fieldShift_disjoint {d e i : Nat} (hbyte : e / 4 = d / 4) (hne : e ≠ d) (hi : i < 2) :
    ¬ (fieldShift d ≤ fieldShift e + i ∧ fieldShift e + i < fieldShift d + 2) := by
  unfold fieldShift
  omega

theorem fieldShift_add_lt (d : Nat) {i : Nat} (hi : i < 2) : fieldShift d + i < 8 := by
  unfold fieldShift
  omega

section
variable {dv : List Byte} {d : Nat} (v : Byte) (h : d / 4 < dv.length)
include h

/-- A field reads back as the low two bits of the value written to it (R68). -/
theorem dvGet_dvPut_same : dvGet (dvPut dv d v) d = v.setWidth 2 := by
  apply BitVec.eq_of_getLsbD_eq
  intro i hi
  rw [dvGet_getLsbD _ _ _ hi, dvPut_getD _ _ _ _ h, if_pos rfl, putField_getLsbD _ _ (fieldShift_add_lt d hi),
    if_pos ⟨Nat.le_add_right _ _, Nat.add_lt_add_left hi _⟩, Nat.add_sub_cancel_left]
  simp [hi]

/-- Every other field, in the written byte or in another one, is unchanged (R68). -/
theorem dvGet_dvPut_other {e : Nat} (hne : e ≠ d) : dvGet (dvPut dv d v) e = dvGet dv e := by
  apply BitVec.eq_of_getLsbD_eq
  intro i hi
  rw [dvGet_getLsbD _ _ _ hi, dvGet_getLsbD _ _ _ hi, dvPut_getD _ _ _ _ h]
  by_cases hbyte : e / 4 = d / 4
  · rw [if_pos hbyte, putField_getLsbD _ _ (fieldShift_add_lt e hi), if_neg (fieldShift_disjoint hbyte hne hi), hbyte]
  · rw [if_neg hbyte]

end

/-- Settles O44: a read is a shift and a mask (`dvGet_toNat`); a write keeps the length (`dvPut_length`), is read back
(`dvGet_dvPut_same`) and leaves the other fields (`dvGet_dvPut_other`). -/
theorem dataVectorFields : Obligations.DataVectorFields := by
  refine ⟨dvGet_toNat, fun dv d v h => ⟨dvPut_length dv d v, ?_, fun _ hne => dvGet_dvPut_other v h hne⟩⟩
  rw [dvGet_dvPut_same v h, BitVec.toNat_setWidth]

/-! ## The events of a receive tick -/

section
variable {R : Type} [Zero R] [One R] [Add R] [Sub R] [Neg R] [Mul R] [LinearOrder R] (E : Build R)

theorem decEvents_length (S : Inst R) : (decEvents E S).length = if S.rxFirstDone = true then 1 else 0 := by
  unfold decEvents
  split <;> rfl

/-- A block that fits in the buffer delivers one Data Vector when it fills the buffer past the first symbol, and none
otherwise (R168, R197). -/
theorem rxPush_events_length {blk : List R} {S : Inst R} (h0 : blk ≠ []) (hn : S.rxIdx + blk.length ≤ E.cfg.n) :
    (rxPush E blk S).2.length =
      if S.rxIdx + blk.length = E.cfg.n ∧ S.rxFirstDone = true then 1 else 0 := by
  rcases hn.lt_or_eq with hlt | heq
  · rw [rxPush_fill E blk S hlt, if_neg fun h => hlt.ne h.1]
    rfl
  · rw [rxPush_decode E blk S h0 heq, decEvents_length, storeBlock_rxFirstDone]
    simp only [heq, true_and]

end

/-- Settles O32: an inactive instance skips the tick; under the invariant the block of an active one fits in the
buffer (`rxIdx_add_block_le`), so its events are those of `rxPush_events_length`. -/
theorem oneEventPerReceiveTick : Obligations.OneEventPerReceiveTick := by
  intro v s t r hs h hr
  rw [exec_next_iff.1 h] at hr
  rcases Sys_rxtick_cases machineEnv (s := s.toSys) v with ⟨hoff, he⟩ | ⟨hact, he⟩
  · rw [he, raise_out] at hr
    cases hr
    simp [hoff]
  · rw [he, runRxPush_out] at hr
    cases hr
    have hlen := rxBlock_length machineEnv v s.toSys
    have hfits : s.inst.rxIdx + (rxBlock machineEnv v s.toSys).length ≤ s.cfg.n :=
      hlen.symm ▸ rxIdx_add_block_le (X := machineEnv) hs hact
    have hne : rxBlock machineEnv v s.toSys ≠ [] :=
      List.ne_nil_of_length_pos (hlen.symm ▸ (validFacts_of_active (X := machineEnv) hs hact).b_pos)
    have hevents := rxPush_events_length (machineEnv.build s.cfg) hne hfits
    rw [hlen] at hevents
    simpa only [hact, true_and, Env_build_cfg] using hevents

end Sys2Proof.Machine
end

section
/-! PROOFS. Encodings (30_encoding.md): the command word (R90 to R94, R101), the two ticks of `TICK` (R102), the status
word (R98), the Gray table (R96) and the constellation (R97, R146, R147). -/

set_option linter.unusedSectionVars false

namespace Sys2Proof.Machine

/-! ## The command word -/

theorem opField_cmdWord {op arg : Nat} (hop : op < 16) (harg : arg < 4096) : opField (cmdWord op arg) = op := by
  rw [opField_eq, cmdWord_toNat hop harg]
  omega

theorem argField_cmdWord {op arg : Nat} (hop : op < 16) (harg : arg < 4096) : argField (cmdWord op arg) = arg := by
  rw [argField_eq, cmdWord_toNat hop harg]
  omega

/-- A word is made of its operation code and its operand (R90). -/
theorem cmdWord_fields (w : CmdWord) : cmdWord (opField w) (argField w) = w := by
  apply BitVec.eq_of_toNat_eq
  rw [cmdWord_toNat (opField_lt w) (argField_eq w ▸ Nat.mod_lt _ (by decide)), opField_eq, argField_eq]
  omega

theorem bits_14_0 (w : CmdWord) : bits w 14 0 = w.toNat % 32768 := by simp [bits]

/-- The word of a reserved command is its 15 operand bits under a set top bit (R94). -/
theorem cmdWord_reserved_toNat {x : Nat} (hx : x < 32768) : (cmdWord 8 x).toNat = 32768 + x := by
  simp only [cmdWord, BitVec.toNat_ofNat]
  omega

theorem cmdWord_reserved_bits {w : CmdWord} (hop : 8 ≤ opField w) : cmdWord 8 (bits w 14 0) = w := by
  have hlt := w.isLt
  rw [opField_eq] at hop
  rw [bits_14_0]
  apply BitVec.eq_of_toNat_eq
  rw [cmdWord_reserved_toNat (Nat.mod_lt _ (by decide))]
  omega

theorem plainCmd_error {op arg : Nat} {i : Instr} : (∃ e, plainCmd op arg i = .error e) ↔ arg ≠ 0 := by
  unfold plainCmd
  split <;> simp [*]

theorem flagCmd_error {op arg : Nat} {i : Bool → Instr} : (∃ e, flagCmd op arg i = .error e) ↔ 2 ≤ arg := by
  unfold flagCmd
  split
  · next h => simp only [reduceCtorEq, exists_false, false_iff]; omega
  · next h => simp only [Except.error.injEq, exists_eq', true_iff]; omega

theorem decode_rdplt {w : CmdWord} (hop : opField w = 7) : decode w = .ok (.rdplt (argField w)) := by
  simp only [decode, hop]

theorem decode_reserved {w : CmdWord} (hop : 8 ≤ opField w) : decode w = .ok (.reserved (bits w 14 0)) := by
  unfold decode
  split
  case h_9 => rfl
  all_goals omega

/-- All the decoder can do: an operation code without operand, with a flag, with a pair index, or of the reserved range
(R91 to R94). -/
theorem decode_cases (w : CmdWord) :
    (∃ i : Instr, opField w ∈ [0, 1, 4, 5, 6] ∧ (i.wf = true ∧ encode i = cmdWord (opField w) 0) ∧
      decode w = plainCmd (opField w) (argField w) i) ∨
    (∃ i : Bool → Instr, opField w ∈ [2, 3] ∧
      (∀ b, (i b).wf = true ∧ encode (i b) = cmdWord (opField w) b.toNat) ∧
      decode w = flagCmd (opField w) (argField w) i) ∨
    (opField w = 7 ∧ decode w = .ok (.rdplt (argField w))) ∨
    (8 ≤ opField w ∧ decode w = .ok (.reserved (bits w 14 0))) := by
  by_cases hop : 8 ≤ opField w
  · exact .inr (.inr (.inr ⟨hop, decode_reserved hop⟩))
  have hlt : opField w < 8 := by omega
  unfold decode
  interval_cases opField w
  · exact .inl ⟨.nop, by simp, ⟨rfl, rfl⟩, rfl⟩
  · exact .inl ⟨.rst, by simp, ⟨rfl, rfl⟩, rfl⟩
  · exact .inr (.inl ⟨.txtick, by simp, fun _ => ⟨rfl, rfl⟩, rfl⟩)
  · exact .inr (.inl ⟨.rxtick, by simp, fun _ => ⟨rfl, rfl⟩, rfl⟩)
  · exact .inl ⟨.rdsts, by simp, ⟨rfl, rfl⟩, rfl⟩
  · exact .inl ⟨.rdtxc, by simp, ⟨rfl, rfl⟩, rfl⟩
  · exact .inl ⟨.rdrxc, by simp, ⟨rfl, rfl⟩, rfl⟩
  · exact .inr (.inr (.inl ⟨rfl, rfl⟩))

theorem decode_encode {i : Instr} (hwf : i.wf = true) : decode (encode i) = .ok i := by
  cases i with
  | nop | rst | rdsts | rdtxc | rdrxc => rfl
  | txtick a => cases a <;> rfl
  | rxtick v => cases v <;> rfl
  | rdplt p =>
    have hp : p < 4096 := of_decide_eq_true hwf
    rw [encode, decode_rdplt (opField_cmdWord (by decide) hp), argField_cmdWord (by decide) hp]
  | reserved x =>
    have hx : x < 32768 := of_decide_eq_true hwf
    have hnat := cmdWord_reserved_toNat hx
    have hop : 8 ≤ opField (cmdWord 8 x) := by rw [opField_eq, hnat]; omega
    have hbits : bits (cmdWord 8 x) 14 0 = x := by rw [bits_14_0, hnat]; omega
    rw [encode, decode_reserved hop, hbits]

/-- Settles O8, command by command: the fields of the word made of an operation code and an operand are these. -/
theorem decodeOfEncode : Obligations.DecodeOfEncode := fun _ => decode_encode

theorem wf_and_encode_of_decode {w : CmdWord} {i : Instr} (h : decode w = .ok i) : i.wf = true ∧ encode i = w := by
  have hword := cmdWord_fields w
  rcases decode_cases w with ⟨j, -, hj, hd⟩ | ⟨j, -, hj, hd⟩ | ⟨hop, hd⟩ | ⟨hop, hd⟩
  · obtain ⟨harg, rfl⟩ := plainCmd_ok.1 (hd.symm.trans h)
    rw [harg] at hword
    exact ⟨hj.1, hj.2.trans hword⟩
  · obtain ⟨harg, rfl⟩ := flagCmd_ok.1 (hd.symm.trans h)
    have hbit : (decide (argField w = 1)).toNat = argField w := by
      have hle : argField w < 2 := by omega
      interval_cases argField w <;> rfl
    refine ⟨(hj _).1, (hj _).2.trans ?_⟩
    rw [hbit, hword]
  · cases hd.symm.trans h
    have hlt : argField w < 4096 := argField_eq w ▸ Nat.mod_lt _ (by decide)
    exact ⟨decide_eq_true hlt, (hop ▸ hword :)⟩
  · cases hd.symm.trans h
    have hlt : bits w 14 0 < 32768 := bits_14_0 w ▸ Nat.mod_lt _ (by decide)
    exact ⟨decide_eq_true hlt, cmdWord_reserved_bits hop⟩

/-- Settles O9: in each of the decoder's four ways the command's word is made of the fields that were decoded
(`cmdWord_fields`, `cmdWord_reserved_bits`). -/
theorem encodeOfDecode : Obligations.EncodeOfDecode := fun _ _ => wf_and_encode_of_decode

/-- Settles O10: of the decoder's four ways (`decode_cases`) two can reject, each on the bits that R93 names. -/
theorem rejectedWordsSetMustBeZeroBits : Obligations.RejectedWordsSetMustBeZeroBits := by
  intro w
  rw [← opField_eq, ← argField_eq]
  simp only [List.mem_cons, List.not_mem_nil, or_false]
  rcases decode_cases w with ⟨i, hop, -, hd⟩ | ⟨i, hop, -, hd⟩ | ⟨hop, hd⟩ | ⟨hop, hd⟩
  · rw [hd, plainCmd_error]
    simp only [List.mem_cons, List.not_mem_nil, or_false] at hop
    omega
  · rw [hd, flagCmd_error]
    simp only [List.mem_cons, List.not_mem_nil, or_false] at hop
    omega
  · simp [hd, hop]
  · simp only [hd, reduceCtorEq, exists_false, false_iff]
    omega

/-- Settles O7: every word is the encoding of its command (R101). -/
theorem tableWordsDecode : Obligations.TableWordsDecode :=
  ⟨decode_encode (i := .nop) rfl, decode_encode (i := .rst) rfl,
    decode_encode (i := .txtick false) rfl, decode_encode (i := .txtick true) rfl,
    decode_encode (i := .rxtick false) rfl, decode_encode (i := .rxtick true) rfl,
    decode_encode (i := .rdsts) rfl, decode_encode (i := .rdtxc) rfl, decode_encode (i := .rdrxc) rfl,
    decode_encode (i := .rdplt 3) rfl, decode_encode (i := .rdplt 4095) rfl, decode_encode (i := .reserved 0) rfl⟩

/-! ## The two halves of `TICK` -/

/-- The transmit half of `T` (R22 to R26) beside the rest of `S`. -/
def Inst.joinTx {R : Type} (T S : Inst R) : Inst R :=
  { S with
    txCode := T.txCode
    txSeg := T.txSeg
    txDv := T.txDv
    txDvValid := T.txDvValid
    txBuf := T.txBuf
    txSymCnt := T.txSymCnt }

/-- The block of `RXTICK V=v` when `RXIN` carries a whole one (`step_rxtick`). -/
def CommandOf.rxBlock {R : Type} [Zero R] (c : CommandOf R) (v : Bool) (b : Nat) : List R :=
  if v then c.rxin else silence b

section
variable {R : Type} [Zero R] [One R] [Add R] [Sub R] [Neg R] [Mul R] [LinearOrder R] (E : Build R)

/-- `TX.STEP` reads and writes the transmit half only. -/
theorem txStep_joinTx (dv : List Byte) (T S : Inst R) :
    txStep E dv (T.joinTx S) = (txStep E dv T).joinTx S := by
  by_cases hseg : T.txSeg = 0
  · simp only [txStep, txEncoded_fadeIn E T hseg, txEncoded_fadeIn E (T.joinTx S) hseg]
    rfl
  · simp only [txStep, txEncoded_later E T hseg, txEncoded_later E (T.joinTx S) hseg]
    rfl

/-- A turn of the loop of `RX.PUSH` neither reads nor writes the transmit half. -/
theorem pushSample_joinTx (T : Inst R) (acc : Inst R × List (List Byte)) (x : R) :
    pushSample E (acc.map T.joinTx id) x = (pushSample E acc x).map T.joinTx id := by
  by_cases hfull : (storeSample acc.1 x).rxIdx = E.cfg.n
  · have hfull' : (storeSample (T.joinTx acc.1) x).rxIdx = E.cfg.n := hfull
    simp only [pushSample, Prod.map, if_pos hfull, if_pos hfull']
    rfl
  · have hfull' : ¬ (storeSample (T.joinTx acc.1) x).rxIdx = E.cfg.n := hfull
    simp only [pushSample, Prod.map, if_neg hfull, if_neg hfull']
    rfl

theorem rxPush_joinTx (blk : List R) (T S : Inst R) :
    (rxPush E blk (T.joinTx S)).1 = T.joinTx (rxPush E blk S).1 :=
  congrArg Prod.fst (List.foldl_hom (Prod.map T.joinTx id) (pushSample_joinTx E T) (l := blk) (init := (S, [])))

/-- `TX.STEP` and `RX.PUSH` work on different halves of `S` (R20), so their order does not matter: either way
the transmit half is that of `TX.STEP` and the rest is that of `RX.PUSH`. -/
theorem rxPush_txStep_comm (blk : List R) (dv : List Byte) (S : Inst R) :
    (rxPush E blk (txStep E dv S)).1 = txStep E dv (rxPush E blk S).1 := by
  have hrx : S.joinTx (rxPush E blk S).1 = (rxPush E blk S).1 := (rxPush_joinTx E blk S S).symm
  calc (rxPush E blk (txStep E dv S)).1
      = (rxPush E blk ((txStep E dv S).joinTx S)).1 := by rw [← txStep_joinTx]; rfl
    _ = (txStep E dv S).joinTx (rxPush E blk S).1 := rxPush_joinTx E blk _ S
    _ = txStep E dv (rxPush E blk S).1 := by rw [← txStep_joinTx, hrx]

/-- Between two fetches it does not matter what `DATASOURCE` would answer. -/
theorem txStep_congr_dv {dv dv' : List Byte} {S : Inst R} (h : S.txSeg = E.cfg.k - 1 → dv = dv') :
    txStep E dv S = txStep E dv' S := by
  by_cases hseg : S.txSeg = E.cfg.k - 1
  · rw [h hseg]
  · simp [txStep, txFetches, hseg]

/-- `S` after `RXTICK` with the block `blk` (R223, `step_rxtick`). -/
def Inst.afterRx (blk : List R) (S : Inst R) : Inst R := if S.active then (rxPush E blk S).1 else S

/-- `S` after `TXTICK A=a` when `DATASOURCE` answers `dv` (R222, `step_txtick`). -/
def Inst.afterTx (a : Bool) (dv : List Byte) (S : Inst R) : Inst R :=
  if S.active && a then txStep E dv S else S

theorem afterRx_txSeg (blk : List R) (S : Inst R) : (S.afterRx E blk).txSeg = S.txSeg := by
  obtain ⟨-, hseg, -⟩ := pushSample_foldl_tx E blk (S, [])
  unfold Inst.afterRx
  split
  · exact hseg
  · rfl

theorem afterRx_afterTx_comm (blk : List R) (a : Bool) (dv : List Byte) (S : Inst R) :
    (S.afterTx E a dv).afterRx E blk = (S.afterRx E blk).afterTx E a dv := by
  cases hact : S.active with
  | false => simp [Inst.afterRx, Inst.afterTx, hact]
  | true => cases a <;> simp [Inst.afterRx, Inst.afterTx, hact, rxPush_txStep_comm]

variable (X : Env R) {s : Sys R} {c : CommandOf R} {rest : List (CommandOf R)}

/-- A receive tick taken from the port, with whatever else is pending. -/
theorem step_rxtick {v : Bool} (hp : s.port = c :: rest) (hw : c.word = encode (.rxtick v))
    (hlen : v = true → c.rxin.length = s.cfg.b) :
    (s.step X).port = rest ∧ (s.step X).inst = s.inst.afterRx (X.build s.cfg) (c.rxBlock v s.cfg.b) := by
  have hstep := Sys_step_word X hp (hw ▸ decode_encode rfl)
  have hblock : rxBlock X v (s.accept c rest) = c.rxBlock v s.cfg.b := by
    cases v with
    | false => rfl
    | true => exact rxBlock_whole X (hlen rfl)
  rw [hstep, Sys_exec_port, accept_port]
  refine ⟨rfl, ?_⟩
  rcases Sys_rxtick_cases X (s := s.accept c rest) v with ⟨hact, he⟩ | ⟨hact, he⟩ <;> rw [accept_inst] at hact
  · simp [he, Inst.afterRx, hact]
  · simp [he, Inst.afterRx, hact, hblock]

/-- A transmit tick taken from the port; `DATASOURCE` needs to be whole only when it is called. -/
theorem step_txtick {a : Bool} (hp : s.port = c :: rest) (hw : c.word = encode (.txtick a))
    (hlen : a = true → s.inst.txSeg = s.cfg.k - 1 → c.ds.length = (layout s.cfg).dvlen) :
    (s.step X).port = rest ∧ (s.step X).inst = s.inst.afterTx (X.build s.cfg) a c.ds := by
  have hstep := Sys_step_word X hp (hw ▸ decode_encode rfl)
  rw [hstep, Sys_exec_port, accept_port]
  refine ⟨rfl, ?_⟩
  rcases Sys_txtick_cases X (s := s.accept c rest) a with ⟨hact, he⟩ | ⟨hact, rfl, he⟩ | ⟨hact, rfl, he⟩
  · rw [accept_inst] at hact
    simp [he, Inst.afterTx, hact]
  · simp [he, Inst.afterTx]
  · rw [accept_inst] at hact
    have hdv : txStep (X.build s.cfg) (readDatasource s.stepNo (layout s.cfg).dvlen c.ds) s.inst =
        txStep (X.build s.cfg) c.ds s.inst :=
      txStep_congr_dv _ fun hseg => readDatasource_whole _ _ _ (hlen rfl hseg)
    simp [he, Inst.afterTx, hact, hdv]

theorem rxtick_txtick_inst {v a : Bool} {cr ct : CommandOf R} (hp : s.port = cr :: ct :: rest)
    (hr : cr.word = encode (.rxtick v)) (ht : ct.word = encode (.txtick a))
    (hrx : v = true → cr.rxin.length = s.cfg.b)
    (htx : a = true → s.inst.txSeg = s.cfg.k - 1 → ct.ds.length = (layout s.cfg).dvlen) :
    ((s.step X).step X).inst =
      (s.inst.afterRx (X.build s.cfg) (cr.rxBlock v s.cfg.b)).afterTx (X.build s.cfg) a ct.ds := by
  obtain ⟨hport, hinst⟩ := step_rxtick X hp hr hrx
  rw [(step_txtick X hport ht (by rwa [hinst, afterRx_txSeg, Sys_step_cfg])).2, hinst, Sys_step_cfg]

theorem txtick_rxtick_inst {v a : Bool} {cr ct : CommandOf R} (hp : s.port = ct :: cr :: rest)
    (hr : cr.word = encode (.rxtick v)) (ht : ct.word = encode (.txtick a))
    (hrx : v = true → cr.rxin.length = s.cfg.b)
    (htx : a = true → s.inst.txSeg = s.cfg.k - 1 → ct.ds.length = (layout s.cfg).dvlen) :
    ((s.step X).step X).inst =
      (s.inst.afterTx (X.build s.cfg) a ct.ds).afterRx (X.build s.cfg) (cr.rxBlock v s.cfg.b) := by
  obtain ⟨hport, hinst⟩ := step_txtick X hp ht htx
  rw [(step_rxtick X hport hr (by rwa [Sys_step_cfg])).2, hinst, Sys_step_cfg]

end

theorem run_two (s : State) :
    Sys2Proof.core.run 2 s = .next { toSys := (s.toSys.step machineEnv).step machineEnv } := by
  rw [run_succ 1 (step_eq s), run_succ 0 (step_eq _), run_zero]

/-- Settles O35: each order of the two ticks is one order of `afterRx` and `afterTx` on the same block and the same
Data Vector (`rxtick_txtick_inst`, `txtick_rxtick_inst`), and these commute (`afterRx_afterTx_comm`). -/
theorem tickHalvesCommute : Obligations.TickHalvesCommute := by
  intro s t u a v cr ct rest hr ht hrx htx hrunt hrunu
  rw [run_two] at hrunt hrunu
  cases hrunt
  cases hrunu
  have hrxtx := rxtick_txtick_inst machineEnv (s := { s.toSys with port := cr :: ct :: rest }) rfl hr ht hrx htx
  have htxrx := txtick_rxtick_inst machineEnv (s := { s.toSys with port := ct :: cr :: rest }) rfl hr ht hrx htx
  exact hrxtx.trans ((afterRx_afterTx_comm _ _ _ _ _).symm.trans htxrx.symm)

/-! ## A reserved word and the status word -/

/-- Settles O13: a reserved word is `badCommand` (`Sys_exec_reserved`), which is the record the statement writes out. -/
theorem reservedOnlyAnswersBadCommand : Obligations.ReservedOnlyAnswersBadCommand :=
  fun x s => exec_eq (.reserved x) s

/-- The status word of R98 grows by one bit at its low end. -/
theorem toNat_append_ofBool {n : Nat} (x : BitVec n) (b : Bool) :
    (x ++ BitVec.ofBool b).toNat = x.toNat * 2 + b.toNat := BitVec.toNat_concat x b

theorem txStateOf_code_toNat (k seg : Nat) :
    (txStateOf k seg).code.toNat = if seg = 0 then 0 else if seg = k - 1 then 2 else 1 := by
  unfold txStateOf
  split_ifs <;> rfl

theorem statusWord_toNat {R : Type} (c : Cfg) (S : Inst R) :
    (statusWord c S).toNat = S.active.toNat + 2 * S.rxFirstDone.toNat + 4 * S.txDvValid.toNat +
      8 * (if S.txSeg = 0 then 0 else if S.txSeg = c.k - 1 then 2 else 1) := by
  rw [statusWord, BitVec.toNat_setWidth_of_le (by decide)]
  simp only [toNat_append_ofBool, txStateOf_code_toNat]
  omega

/-- Settles O23: `RDSTS` answers `statusWord` (`Sys_exec_rdsts`), whose five bits are a number by
`statusWord_toNat`. -/
theorem rdstsAnswersStatusWord : Obligations.RdstsAnswersStatusWord :=
  fun s => ⟨statusWord s.cfg s.inst, exec_eq .rdsts s, statusWord_toNat s.cfg s.inst⟩

/-! ## The Gray table -/

theorem gray_gray : ∀ b : Dibit, gray (gray b) = b := by decide

theorem gray_eq_xor_shift : ∀ b : Dibit, gray b = b ^^^ (b >>> 1) := by decide

/-- Settles O42: the rows are read off the table, and there are four values to check the two laws on. -/
theorem grayTable_spec : Obligations.GrayTable :=
  ⟨rfl, rfl, rfl, rfl, fun b => ⟨gray_gray b, gray_eq_xor_shift b⟩⟩

/-! ## The constellation -/

theorem phaseCode_cases (c : PhaseCode) : c = 0 ∨ c = 1 ∨ c = 2 ∨ c = 3 ∨ c = 4 ∨ c = 5 ∨ c = 6 ∨ c = 7 := by
  revert c
  decide

section
variable {R : Type} (m : Num R)

/-- The cosine table is even (R8). -/
theorem cos8_zero_sub [Zero R] [One R] [Neg R] (c : PhaseCode) : m.cos8 (0 - c) = m.cos8 c := by
  rcases phaseCode_cases c with rfl | rfl | rfl | rfl | rfl | rfl | rfl | rfl <;> rfl

/-- Half a turn changes the sign of the cosine (R8). -/
theorem cos8_add_four [Ring R] (c : PhaseCode) : m.cos8 (c + 4) = -m.cos8 c := by
  rcases phaseCode_cases c with rfl | rfl | rfl | rfl | rfl | rfl | rfl | rfl <;> simp [Num.cos8]

end

/-- Eight eighths of a turn are a whole one. -/
theorem cos_eighths_mod (n : ℕ) : Real.cos ((n % 8 : ℕ) * (Real.pi / 4)) = Real.cos (n * (Real.pi / 4)) := by
  have hn : (n : ℝ) = (n % 8 : ℕ) + 8 * (n / 8 : ℕ) := by exact_mod_cast (Nat.mod_add_div n 8).symm
  have hturns : (n : ℝ) * (Real.pi / 4) = (n % 8 : ℕ) * (Real.pi / 4) + (n / 8 : ℕ) * (2 * Real.pi) := by
    rw [hn]
    ring
  rw [hturns, Real.cos_add_nat_mul_two_pi]

/-- The reference cosine table holds the cosines: over a quarter turn by their values, and on by half turns. -/
theorem refNum_cos8_eq_cos (z : ℝ) (c : PhaseCode) :
    (refNum z).cos8 c = Real.cos (c.toNat * (Real.pi / 4)) := by
  have half (c : PhaseCode) (h : (refNum z).cos8 c = Real.cos (c.toNat * (Real.pi / 4))) :
      (refNum z).cos8 (c + 4) = Real.cos ((c + 4).toNat * (Real.pi / 4)) := by
    have hpi : ((c.toNat + 4 : ℕ) : ℝ) * (Real.pi / 4) = c.toNat * (Real.pi / 4) + Real.pi := by
      push_cast
      ring
    rw [cos8_add_four, h, BitVec.toNat_add, cos_eighths_mod, ← Real.cos_add_pi, ← hpi]
    rfl
  have h0 : (refNum z).cos8 0 = Real.cos ((0 : PhaseCode).toNat * (Real.pi / 4)) := by simp [Num.cos8]
  have h1 : (refNum z).cos8 1 = Real.cos ((1 : PhaseCode).toNat * (Real.pi / 4)) := by simp [Num.cos8, refNum]
  have h2 : (refNum z).cos8 2 = Real.cos ((2 : PhaseCode).toNat * (Real.pi / 4)) := by
    have hangle : (2 : ℝ) * (Real.pi / 4) = Real.pi / 2 := by ring
    simp [Num.cos8, hangle]
  have h3 : (refNum z).cos8 3 = Real.cos ((3 : PhaseCode).toNat * (Real.pi / 4)) := by
    have hangle : (3 : ℝ) * (Real.pi / 4) = Real.pi - Real.pi / 4 := by ring
    simp [Num.cos8, refNum, hangle]
  rcases phaseCode_cases c with rfl | rfl | rfl | rfl | rfl | rfl | rfl | rfl
  exacts [h0, h1, h2, h3, half 0 h0, half 1 h1, half 2 h2, half 3 h3]

/-- `SIN8` is `COS8` three quarters of a turn on (R97), which is the sine. -/
theorem refNum_sin8_eq_sin (z : ℝ) (c : PhaseCode) :
    (refNum z).sin8 c = Real.sin (c.toNat * (Real.pi / 4)) := by
  have hangle : ((c.toNat + 6 : ℕ) : ℝ) * (Real.pi / 4) = c.toNat * (Real.pi / 4) - Real.pi / 2 + 2 * Real.pi := by
    push_cast
    ring
  calc (refNum z).cos8 (c + 6)
      = Real.cos (((c.toNat + 6) % 8 : ℕ) * (Real.pi / 4)) := refNum_cos8_eq_cos z (c + 6)
    _ = Real.sin (c.toNat * (Real.pi / 4)) := by
      rw [cos_eighths_mod, hangle, Real.cos_add_two_pi, Real.cos_sub_pi_div_two]

theorem refNum_point_eq_cos_sin (z : ℝ) (c : PhaseCode) :
    point (refNum z) c = ⟨Real.cos (c.toNat * (Real.pi / 4)), Real.sin (c.toNat * (Real.pi / 4))⟩ := by
  rw [point, refNum_cos8_eq_cos, refNum_sin8_eq_sin]

theorem refNum_cos45 (z : ℝ) : (refNum z).cos45 = Real.sqrt 2 / 2 := Real.cos_pi_div_four

/-- The rows of R97's table. -/
theorem refNum_point_table (z : ℝ) (c : PhaseCode) :
    let h := Real.sqrt 2 / 2
    point (refNum z) c =
      ⟨[1, h, 0, -h, -1, -h, 0, h].getD c.toNat 0, [0, h, 1, h, 0, -h, -1, -h].getD c.toNat 0⟩ := by
  rcases phaseCode_cases c with rfl | rfl | rfl | rfl | rfl | rfl | rfl | rfl <;>
    simp [point, Num.sin8, Num.cos8, refNum_cos45]

/-- Settles O57: the reference point is (cos, sin) of the code's angle and R97's row; the machine's cosine table has R8's
symmetries (`cos8_zero_sub`, `cos8_add_four`), and `point`, `pilotPoint` and `txSpectrum` are built from it. -/
theorem constellationPoints : Obligations.ConstellationPoints := by
  refine ⟨fun z c => ⟨refNum_point_table z c, refNum_point_eq_cos_sin z c, ?_⟩, fun cfg => ?_⟩
  · rw [refNum_point_eq_cos_sin]
    exact Real.cos_sq_add_sin_sq _
  · exact ⟨rfl, rfl, rfl, rfl, fun c => ⟨cos8_zero_sub _ c, cos8_add_four _ c⟩, fun _ => rfl, rfl, fun _ => rfl⟩

end Sys2Proof.Machine
end

section
/-! PROOFS. The allocator (40_allocator.md): the bins of the layout and their roles (R121 to R124, R127), `DEMUX` (R125)
and `MUX` (R126). -/

set_option linter.unusedSectionVars false

namespace Sys2Proof.Machine

/-! ## The active range, group by group (R122) -/

/-- Offset `r` of group `q`, when groups are `b` long, lies in group `q`. -/
theorem mul_add_div_of_lt {q r b : Nat} (hr : r < b) : (q * b + r) / b = q := by
  rw [Nat.add_comm, Nat.add_mul_div_right _ _ (Nat.zero_lt_of_lt hr), Nat.div_eq_of_lt hr, Nat.zero_add]

/-- A group before the `p`-th ends where the `p`-th begins, or earlier. -/
theorem mul_add_self_le {q p : Nat} (b : Nat) (hq : q < p) : q * b + b ≤ p * b :=
  Nat.succ_mul q b ▸ Nat.mul_le_mul_right b hq

theorem isActive_iff (c : Cfg) (i : Nat) : isActive c i = true ↔ c.channelMin ≤ i ∧ i ≤ c.channelMax := by
  simp [isActive]

section
variable {c : Cfg} (h : ValidFacts c)
include h

/-- The active range is its groups: bin `base_q + o` for a group `q` and an offset `o` inside it. -/
theorem isActive_iff_group {i : Nat} :
    isActive c i = true ↔ ∃ q < c.p, ∃ o < c.g, i = groupBase c q + o := by
  have hlen := h.p_mul_g
  have hpos := h.channels_pos
  have hg : 0 < c.g := Nat.succ_pos _
  rw [isActive_iff, Cfg.channelMax]
  constructor
  · rintro ⟨hmin, hmax⟩
    have hq : (i - c.channelMin) / c.g < c.p := (Nat.div_lt_iff_lt_mul hg).2 (by omega)
    have hi := Nat.div_add_mod' (i - c.channelMin) c.g
    exact ⟨_, hq, (i - c.channelMin) % c.g, Nat.mod_lt _ hg, by rw [groupBase]; omega⟩
  · rintro ⟨q, hq, o, ho, rfl⟩
    have hend := mul_add_self_le c.g hq
    rw [groupBase]
    omega

/-- An active bin lies below the middle of the spectrum (R121), so its mirror bin lies above. -/
theorem active_bounds {i : Nat} (hi : isActive c i = true) : 1 ≤ i ∧ i < c.n / 2 := by
  have hmin := h.min_pos
  have hmax := h.max_le
  rw [isActive_iff] at hi
  omega

theorem isActive_zero : isActive c 0 = false :=
  Bool.eq_false_iff.2 fun hact => absurd (active_bounds h hact).1 (by decide)

theorem not_active_of_ge {i : Nat} (hi : c.n / 2 ≤ i) : isActive c i = false :=
  Bool.eq_false_iff.2 fun hact => absurd (active_bounds h hact).2 (by omega)

theorem mirror_not_active {i : Nat} (hi : isActive c i = true) : isActive c (c.n - i) = false := by
  have hlow := active_bounds h hi
  exact not_active_of_ge h (by omega)

/-! ## The role of each bin (R123) -/

theorem role_group {q o : Nat} (hq : q < c.p) (ho : o < c.g) : role c (groupBase c q + o) =
    if o = c.pilotOfs then .pilot1 q else if o = c.pilotOfs + 1 then .pilot2 q
    else if o < c.pilotOfs then .data (q * c.chunkData + o) else .data (q * c.chunkData + (o - 2)) := by
  have hact : isActive c (groupBase c q + o) = true := (isActive_iff_group h).2 ⟨q, hq, o, ho, rfl⟩
  have hsub : groupBase c q + o - c.channelMin = q * c.g + o := by rw [groupBase]; omega
  simp only [role, hact, if_true, activeRole, hsub, mul_add_div_of_lt ho, Nat.mul_add_mod_of_lt ho]

theorem role_pilot1Bin {q : Nat} (hq : q < c.p) : role c (pilot1Bin c q) = .pilot1 q := by
  have hofs := h.ofs_le
  rw [pilot1Bin, role_group h hq (by rw [Cfg.g]; omega), if_pos rfl]

theorem role_pilot2Bin {q : Nat} (hq : q < c.p) : role c (pilot2Bin c q) = .pilot2 q := by
  have hofs := h.ofs_le
  rw [pilot2Bin, Nat.add_assoc, role_group h hq (by rw [Cfg.g]; omega), if_neg (by omega), if_pos rfl]

theorem role_groupDataBin {q r : Nat} (hq : q < c.p) (hr : r < c.chunkData) :
    role c (groupDataBin c q r) = .data (q * c.chunkData + r) := by
  rw [groupDataBin, Nat.add_assoc, role_group h hq (by rw [Cfg.g]; split <;> omega)]
  by_cases hlow : r < c.pilotOfs
  · rw [if_pos hlow, Nat.add_zero, if_neg (by omega), if_neg (by omega), if_pos hlow]
  · rw [if_neg hlow, if_neg (by omega), if_neg (by omega), if_neg (by omega), Nat.add_sub_cancel]

/-- A data channel's group and its place in the group. -/
theorem channel_split {d : Nat} (hd : d < c.d) : d / c.chunkData < c.p ∧ d % c.chunkData < c.chunkData :=
  ⟨(Nat.div_lt_iff_lt_mul h.chunk_pos).2 hd, Nat.mod_lt _ h.chunk_pos⟩

theorem role_dataBin {d : Nat} (hd : d < c.d) : role c (dataBin c d) = .data d := by
  obtain ⟨hq, hr⟩ := channel_split h hd
  rw [dataBin, role_groupDataBin h hq hr, Nat.div_add_mod']

theorem channel_lt {q r : Nat} (hq : q < c.p) (hr : r < c.chunkData) : q * c.chunkData + r < c.d := by
  have hend := mul_add_self_le c.chunkData hq
  rw [Cfg.d]
  omega

omit h in
theorem dataBin_channel {q r : Nat} (hr : r < c.chunkData) :
    dataBin c (q * c.chunkData + r) = groupDataBin c q r := by
  rw [dataBin, mul_add_div_of_lt hr, Nat.mul_add_mod_of_lt hr]

/-- The active bins are the bins of the three arrays. -/
theorem isActive_iff_bin {i : Nat} : isActive c i = true ↔
    (∃ d < c.d, dataBin c d = i) ∨ (∃ q < c.p, pilot1Bin c q = i) ∨ ∃ q < c.p, pilot2Bin c q = i := by
  have hofs := h.ofs_le
  constructor
  · intro hi
    obtain ⟨q, hq, o, ho, rfl⟩ := (isActive_iff_group h).1 hi
    rw [Cfg.g] at ho
    rcases lt_trichotomy o c.pilotOfs with hlow | rfl | hhigh
    · refine .inl ⟨q * c.chunkData + o, channel_lt h hq (by omega), ?_⟩
      rw [dataBin_channel (by omega), groupDataBin, if_pos hlow, Nat.add_zero]
    · exact .inr (.inl ⟨q, hq, rfl⟩)
    · by_cases hnext : o = c.pilotOfs + 1
      · exact .inr (.inr ⟨q, hq, by rw [hnext, pilot2Bin, Nat.add_assoc]⟩)
      · refine .inl ⟨q * c.chunkData + (o - 2), channel_lt h hq (by omega), ?_⟩
        rw [dataBin_channel (by omega), groupDataBin, if_neg (by omega)]
        omega
  · rw [isActive_iff_group h, Cfg.g]
    rintro (⟨d, hd, rfl⟩ | ⟨q, hq, rfl⟩ | ⟨q, hq, rfl⟩)
    · obtain ⟨hq, hr⟩ := channel_split h hd
      exact ⟨_, hq, _, by split <;> omega, Nat.add_assoc _ _ _⟩
    · exact ⟨q, hq, c.pilotOfs, by omega, rfl⟩
    · exact ⟨q, hq, c.pilotOfs + 1, by omega, rfl⟩

/-! ## The arrays of the layout (R121, R127) -/

theorem dataBin_strictMono : StrictMono (dataBin c) := by
  intro d e hde
  have hd := Nat.div_add_mod' d c.chunkData
  have he := Nat.div_add_mod' e c.chunkData
  have hr := Nat.mod_lt d h.chunk_pos
  rcases (Nat.div_le_div_right hde.le : d / c.chunkData ≤ e / c.chunkData).eq_or_lt with hq | hq
  · rw [dataBin, dataBin, groupDataBin, groupDataBin, hq]
    rw [hq] at hd
    split_ifs <;> omega
  · have hgroup := mul_add_self_le c.g hq
    have hg : c.g = c.chunkData + 2 := rfl
    rw [dataBin, dataBin, groupDataBin, groupDataBin, groupBase, groupBase]
    split_ifs <;> omega

omit h in
theorem pilot1Bin_strictMono : StrictMono (pilot1Bin c) := by
  intro q q' hq
  have hstep : q * c.g < q' * c.g := Nat.mul_lt_mul_of_pos_right hq (Nat.succ_pos _)
  rw [pilot1Bin, pilot1Bin, groupBase, groupBase]
  omega

end

/-- Every bin of the three arrays, in the order of the arrays. -/
def roleBins (c : Cfg) : List Nat := (layout c).dataBin ++ (layout c).pilot1 ++ (layout c).pilot2

section
variable {c : Cfg} (h : ValidFacts c)
include h

theorem mem_roleBins {i : Nat} : i ∈ roleBins c ↔ isActive c i = true := by
  rw [isActive_iff_bin h, roleBins, layout_valid ((valid_iff c).2 h)]
  simp

/-- No bin has two roles: `ROLE` sends the bins of the arrays to distinct roles. -/
theorem roleBins_nodup : (roleBins c).Nodup := by
  apply List.Nodup.of_map (role c)
  have hroles : (roleBins c).map (role c) =
      (List.range c.d).map .data ++ (List.range c.p).map .pilot1 ++ (List.range c.p).map .pilot2 := by
    rw [roleBins, layout_valid ((valid_iff c).2 h)]
    simp only [List.map_append, List.map_map]
    congr 1
    · congr 1
      · exact List.map_congr_left fun d hd => role_dataBin h (List.mem_range.1 hd)
      · exact List.map_congr_left fun q hq => role_pilot1Bin h (List.mem_range.1 hq)
    · exact List.map_congr_left fun q hq => role_pilot2Bin h (List.mem_range.1 hq)
  rw [hroles]
  simp only [List.nodup_append, List.mem_append, List.mem_map]
  refine ⟨⟨List.nodup_range.map fun _ _ => Role.data.inj, List.nodup_range.map fun _ _ => Role.pilot1.inj, ?_⟩,
    List.nodup_range.map fun _ _ => Role.pilot2.inj, ?_⟩
  · rintro _ ⟨d, -, rfl⟩ _ ⟨q, -, rfl⟩
    exact Role.noConfusion
  · rintro _ (⟨d, -, rfl⟩ | ⟨d, -, rfl⟩) _ ⟨q, -, rfl⟩ <;> exact Role.noConfusion

theorem layout_p : (layout c).p = c.p := by
  rw [layout_valid ((valid_iff c).2 h)]

theorem layout_d : (layout c).d = c.d := by
  rw [layout_valid ((valid_iff c).2 h)]

theorem layout_dvlen : (layout c).dvlen = c.dvlen := by
  rw [layout_valid ((valid_iff c).2 h)]

theorem layout_dataBin_getD {d : Nat} (hd : d < c.d) : (layout c).dataBin.getD d 0 = dataBin c d := by
  rw [layout_valid ((valid_iff c).2 h)]
  simp [hd]

theorem layout_pilot1_getD {q : Nat} (hq : q < c.p) : (layout c).pilot1.getD q 0 = pilot1Bin c q := by
  rw [layout_valid ((valid_iff c).2 h)]
  simp [hq]

theorem layout_pilot2_getD {q : Nat} (hq : q < c.p) : (layout c).pilot2.getD q 0 = pilot2Bin c q := by
  rw [layout_valid ((valid_iff c).2 h)]
  simp [hq]

theorem layout_dataBin_sorted : (layout c).dataBin.Pairwise (· < ·) := by
  rw [layout_valid ((valid_iff c).2 h)]
  exact List.pairwise_lt_range.map _ fun _ _ hlt => dataBin_strictMono h hlt

theorem layout_pilot1_sorted : (layout c).pilot1.Pairwise (· < ·) := by
  rw [layout_valid ((valid_iff c).2 h)]
  exact List.pairwise_lt_range.map _ fun _ _ hlt => pilot1Bin_strictMono hlt

/-- The two bins of a pilot pair are adjacent (R121). -/
theorem layout_pilot2_eq : (layout c).pilot2 = (layout c).pilot1.map (· + 1) := by
  rw [layout_valid ((valid_iff c).2 h), List.map_map]
  rfl

end

/-- Settles O38: the order of the bins by `dataBin_strictMono`, one role for each bin by `roleBins_nodup`, the active
bins by `mem_roleBins`, and R123's formulas by the bins of the layout. -/
theorem allocationMeetsConstraints : Obligations.AllocationMeetsConstraints := by
  refine ⟨fun c hc => by rw [layout_invalid hc]; exact ⟨rfl, rfl, rfl⟩, fun c hc => ?_⟩
  have h := (valid_iff c).1 hc
  simp only [layout_p h, layout_d h, layout_dvlen h, layout_dataBin_length, layout_pilot1_length,
    layout_pilot2_length, and_self, true_and]
  refine ⟨⟨h.min_pos, Nat.le_sub_one_of_lt h.max_le⟩, layout_dataBin_sorted h, layout_pilot1_sorted h,
    layout_pilot2_eq h, roleBins_nodup h, fun i => (mem_roleBins h).trans (isActive_iff c i),
    ⟨h.p_mul_g, rfl, rfl⟩, fun q hq => layout_pilot1_getD h hq, fun q hq r hr => ?_⟩
  exact (layout_dataBin_getD h (channel_lt h hq hr)).trans (dataBin_channel hr)

/-! ## `DEMUX` (R125) -/

/-- What `DEMUX` reads of a spectrum at each bin of an array. -/
theorem map_getD_bin {R : Type} [Zero R] (Y : List (Cpx R)) {bins : List Nat} {d : Nat} (hd : d < bins.length) :
    (bins.map fun i => Y.getD i Cpx.zero).getD d Cpx.zero = Y.getD (bins.getD d 0) Cpx.zero := by
  simp [List.getD_eq_getElem?_getD, hd]

section
variable {R : Type} [Zero R] [Add R] [Sub R] [Neg R] [Mul R] [LinearOrder R]

/-- `DEMUX` is a function of the elements at the bins of the three arrays. -/
theorem demux_congr {c : Cfg} {Y Z : List (Cpx R)}
    (hYZ : ∀ i ∈ roleBins c, Y.getD i Cpx.zero = Z.getD i Cpx.zero) : demux c Y = demux c Z := by
  simp only [roleBins, List.mem_append, or_imp, forall_and] at hYZ
  obtain ⟨⟨hdata, hpilot1⟩, hpilot2⟩ := hYZ
  simp only [demux, List.map_congr_left hdata, List.map_congr_left hpilot1, List.map_congr_left hpilot2]

end

/-- Settles O39: each output is a bin of its array (`map_getD_bin`), and these bins are the active ones
(`mem_roleBins`). -/
theorem demuxReadsActiveBinsOnly : Obligations.DemuxReadsActiveBinsOnly := by
  refine ⟨fun c Y _ => ⟨⟨by simp [demux], by simp [demux], by simp [demux]⟩,
    fun d hd => map_getD_bin Y (by simpa using hd), fun p hp => map_getD_bin Y (by simpa using hp),
    fun p hp => map_getD_bin Y (by simpa using hp)⟩, fun c Y Z hc hYZ => demux_congr fun i hi => ?_⟩
  obtain ⟨hmin, hmax⟩ := (isActive_iff c i).1 ((mem_roleBins ((valid_iff c).1 hc)).1 hi)
  exact hYZ i hmin hmax

/-! ## `MUX` (R126) -/

section
variable {R : Type} [Zero R] [One R] [Neg R] [LinearOrder R]

/-- The value `f i` in each bin `i` of a list, and its conjugate in the mirror bin, one bin after the other. -/
def putBins (n : Nat) (f : Nat → Cpx R) (bins : List Nat) (X : List (Cpx R)) : List (Cpx R) :=
  bins.foldl (fun X i => putBin n X i (f i)) X

theorem putBins_length (n : Nat) (f : Nat → Cpx R) (bins : List Nat) (X : List (Cpx R)) :
    (putBins n f bins X).length = X.length :=
  List.foldlRecOn bins _ (motive := fun X' : List (Cpx R) => X'.length = X.length) rfl
    fun _ ih _ _ => (putBin_length _ _ _ _).trans ih

/-- Placements at bins of the lower half of the spectrum: a listed bin holds its value, the mirror bin of a listed bin
the conjugate, and every other bin what it held before. -/
theorem putBins_getD {n : Nat} (f : Nat → Cpx R) {bins : List Nat} (hbins : ∀ i ∈ bins, 1 ≤ i ∧ i < n / 2)
    {X : List (Cpx R)} (hX : X.length = n) {j : Nat} (hj : j < n) :
    (putBins n f bins X).getD j Cpx.zero =
      if j ∈ bins then f j else if n - j ∈ bins then (f (n - j)).conj else X.getD j Cpx.zero := by
  induction bins generalizing X with
  | nil => simp [putBins]
  | cons i bins ih =>
    obtain ⟨⟨hi, hin⟩, hrest⟩ := List.forall_mem_cons.1 hbins
    have hput := putBin_getD n X i j (f i) (by omega) (by omega)
    rw [putBins, List.foldl_cons, ← putBins, ih hrest ((putBin_length _ _ _ _).trans hX), hput]
    by_cases hbin : j = i
    · have hmirror : n - j ∉ bins := fun hm => by have := hrest _ hm; omega
      have hne : j ≠ n - i := by omega
      rw [if_neg hmirror, if_neg hne, if_pos hbin, ← hbin, ite_self, if_pos List.mem_cons_self]
    · by_cases hconj : j = n - i
      · have hback : n - j = i := by omega
        have hlow : j ∉ bins := fun hm => by have := hrest _ hm; omega
        rw [if_neg hlow, if_pos hconj, hback, ite_self, if_neg (by simp [hbin, hlow]), if_pos List.mem_cons_self]
      · have hback : n - j ≠ i := by omega
        simp only [List.mem_cons, hbin, hback, hconj, false_or, if_false]

/-- The point that its role gives an active bin (R126). -/
def binPoint (c : Cfg) (xdata : List (Cpx R)) (xpil : Cpx R) (i : Nat) : Cpx R :=
  match role c i with
  | .data d => xdata.getD d Cpx.zero
  | .pilot1 _ | .pilot2 _ => xpil
  | .mirror _ | .unused => Cpx.zero

/-- The bins in the order in which `MUX` fills them (R126). -/
def muxBins (c : Cfg) : List Nat :=
  (List.range c.d).map (dataBin c) ++ (List.range c.p).flatMap fun q => [pilot1Bin c q, pilot2Bin c q]

variable {c : Cfg} (h : ValidFacts c)
include h

theorem mem_muxBins {i : Nat} : i ∈ muxBins c ↔ isActive c i = true := by
  rw [isActive_iff_bin h, muxBins]
  simp [eq_comm, and_or_left, exists_or]

/-- `MUX` places at every active bin the point of its role. -/
theorem mux_eq_putBins (xdata : List (Cpx R)) (xpil : Cpx R) :
    mux c xdata xpil = putBins c.n (binPoint c xdata xpil) (muxBins c) (List.replicate c.n Cpx.zero) := by
  have hdata : ∀ X, ∀ d ∈ List.range c.d, putBin c.n X ((layout c).dataBin.getD d 0) (xdata.getD d Cpx.zero) =
      putBin c.n X (dataBin c d) (binPoint c xdata xpil (dataBin c d)) := by
    intro X d hd
    have hd' := List.mem_range.1 hd
    rw [layout_dataBin_getD h hd', binPoint, role_dataBin h hd']
  have hpilots : ∀ X, ∀ q ∈ List.range c.p,
      putBin c.n (putBin c.n X ((layout c).pilot1.getD q 0) xpil) ((layout c).pilot2.getD q 0) xpil =
      [pilot1Bin c q, pilot2Bin c q].foldl (fun X i => putBin c.n X i (binPoint c xdata xpil i)) X := by
    intro X q hq
    have hq' := List.mem_range.1 hq
    rw [layout_pilot1_getD h hq', layout_pilot2_getD h hq', List.foldl_cons, List.foldl_cons, List.foldl_nil,
      binPoint, binPoint, role_pilot1Bin h hq', role_pilot2Bin h hq']
  simp only [putBins, muxBins, List.foldl_append, List.foldl_map, List.foldl_flatMap, mux, layout_d h, layout_p h]
  rw [List.foldl_ext _ _ _ hdata, List.foldl_ext _ _ _ hpilots]

/-- Every bin of the transmit spectrum: an active bin holds the point of its role, a mirror bin the conjugate. -/
theorem mux_getD (xdata : List (Cpx R)) (xpil : Cpx R) {i : Nat} (hi : i < c.n) :
    (mux c xdata xpil).getD i Cpx.zero =
      if isActive c i then binPoint c xdata xpil i
      else if isActive c (c.n - i) then (binPoint c xdata xpil (c.n - i)).conj else Cpx.zero := by
  have hbins : ∀ j ∈ muxBins c, 1 ≤ j ∧ j < c.n / 2 := fun j hj => active_bounds h ((mem_muxBins h).1 hj)
  rw [mux_eq_putBins h, putBins_getD _ hbins List.length_replicate hi]
  simp only [mem_muxBins h, List.getD_replicate _ hi]

theorem mux_getD_active (xdata : List (Cpx R)) (xpil : Cpx R) {i : Nat} (hi : isActive c i = true) :
    (mux c xdata xpil).getD i Cpx.zero = binPoint c xdata xpil i := by
  have hlow := active_bounds h hi
  rw [mux_getD h _ _ (by omega), if_pos hi]

theorem mux_getD_mirror (xdata : List (Cpx R)) (xpil : Cpx R) {i : Nat} (hi : isActive c i = true) :
    (mux c xdata xpil).getD (c.n - i) Cpx.zero = (binPoint c xdata xpil i).conj := by
  have hlow := active_bounds h hi
  have hback : c.n - (c.n - i) = i := by omega
  rw [mux_getD h _ _ (by omega), hback, if_neg (by simp [mirror_not_active h hi]), if_pos hi]

theorem mux_getD_unused (xdata : List (Cpx R)) (xpil : Cpx R) {i : Nat} (hi : i < c.n)
    (hlow : isActive c i = false) (hhigh : isActive c (c.n - i) = false) :
    (mux c xdata xpil).getD i Cpx.zero = Cpx.zero := by
  rw [mux_getD h _ _ hi, hlow, hhigh]
  rfl

omit h in
/-- A bin of the spectrum is active, the mirror bin of an active one, or neither. -/
theorem bin_cases {i : Nat} (hi : i < c.n) : isActive c i = true ∨
    (∃ j, isActive c j = true ∧ c.n - j = i) ∨ (isActive c i = false ∧ isActive c (c.n - i) = false) := by
  by_cases hlow : isActive c i = true
  · exact .inl hlow
  · by_cases hhigh : isActive c (c.n - i) = true
    · exact .inr (.inl ⟨c.n - i, hhigh, by omega⟩)
    · exact .inr (.inr ⟨by simpa using hlow, by simpa using hhigh⟩)

theorem role_active {i : Nat} (hi : isActive c i = true) :
    (∃ d, role c i = .data d) ∨ (∃ q, role c i = .pilot1 q) ∨ ∃ q, role c i = .pilot2 q := by
  rcases (isActive_iff_bin h).1 hi with ⟨d, hd, rfl⟩ | ⟨q, hq, rfl⟩ | ⟨q, hq, rfl⟩
  · exact .inl ⟨d, role_dataBin h hd⟩
  · exact .inr (.inl ⟨q, role_pilot1Bin h hq⟩)
  · exact .inr (.inr ⟨q, role_pilot2Bin h hq⟩)

theorem role_mirror {j : Nat} (hj : isActive c j = true) : role c (c.n - j) = .mirror j := by
  have hlow := active_bounds h hj
  have hback : c.n - (c.n - j) = j := by omega
  simp [role, mirror_not_active h hj, hback, hj]

theorem mux_length (xdata : List (Cpx R)) (xpil : Cpx R) : (mux c xdata xpil).length = c.n := by
  rw [mux_eq_putBins h, putBins_length, List.length_replicate]

end

theorem cpx_conj_conj {R : Type} [InvolutiveNeg R] (z : Cpx R) : z.conj.conj = z := by
  rw [Cpx.conj, Cpx.conj, neg_neg]

theorem cpx_conj_zero {R : Type} [NegZeroClass R] : (Cpx.zero : Cpx R).conj = Cpx.zero := by
  rw [Cpx.conj, Cpx.zero, neg_zero]

/-- Settles O40: bin `i` is active and `N - i` its mirror bin, or the other way round, or both hold nothing. -/
theorem spectrumIsHermitian : Obligations.SpectrumIsHermitian := by
  intro c xdata xpil hc X
  have h := (valid_iff c).1 hc
  have hmax := h.max_le
  refine ⟨mux_length h _ _, fun i hpos hi => ?_, ?_, ?_⟩
  · rcases bin_cases hi with hact | ⟨j, hj, rfl⟩ | ⟨hlow, hhigh⟩
    · rw [mux_getD_mirror h _ _ hact, mux_getD_active h _ _ hact]
    · have hback : c.n - (c.n - j) = j := by have := active_bounds h hj; omega
      rw [hback, mux_getD_active h _ _ hj, mux_getD_mirror h _ _ hj, cpx_conj_conj]
    · have hback : c.n - (c.n - i) = i := by omega
      rw [mux_getD_unused h _ _ hi hlow hhigh, cpx_conj_zero,
        mux_getD_unused h _ _ (by omega) hhigh (hback.symm ▸ hlow)]
  · exact mux_getD_unused h _ _ (by omega) (isActive_zero h) (not_active_of_ge h (by omega))
  · exact mux_getD_unused h _ _ (by omega) (not_active_of_ge h le_rfl) (not_active_of_ge h (by omega))

/-- Settles O41: the spectrum and `ROLE` split the bins in the same way (`bin_cases`). -/
theorem spectrumFollowsRoles : Obligations.SpectrumFollowsRoles := by
  intro c xdata xpil hc X i hi
  have h := (valid_iff c).1 hc
  rcases bin_cases hi with hact | ⟨j, hj, rfl⟩ | ⟨hlow, hhigh⟩
  · rw [mux_getD_active h _ _ hact, binPoint]
    rcases role_active h hact with ⟨d, hr⟩ | ⟨q, hr⟩ | ⟨q, hr⟩ <;> rw [hr]
  · rw [mux_getD_mirror h _ _ hj, role_mirror h hj]
    exact congrArg Cpx.conj (mux_getD_active h _ _ hj).symm
  · rw [mux_getD_unused h _ _ hi hlow hhigh]
    simp [role, hlow, hhigh]

end Sys2Proof.Machine
end

section
/-! PROOFS. The encoder (41_dqpsk_encoder.md): the new phase code of a channel (R143) and the reference pass (R151). -/

set_option linter.unusedSectionVars false

namespace Sys2Proof.Machine

/-! ## The new phase code (R143) -/

/-- The three bits that are kept are the mathematical modulo, so the code of a negative sum is right too (R12). -/
theorem newCode_toNat (offset : Int) (c : PhaseCode) (b : Dibit) :
    ((newCode offset c b).toNat : Int) = (c.toNat + 2 * (gray b).toNat + offset) % 8 := by
  rw [newCode, BitVec.toNat_ofInt]
  push_cast
  omega

/-- The code does not see a whole turn of eight steps in the offset. -/
theorem newCode_congr {o o' : Int} (h : o ≡ o' [ZMOD 8]) (c : PhaseCode) (b : Dibit) :
    newCode o c b = newCode o' c b := by
  apply BitVec.eq_of_toNat_eq
  apply Int.ofNat_inj.1
  rw [newCode_toNat, newCode_toNat]
  exact h.add_left _

theorem advanceCodes_congr {o o' : Int} (h : o ≡ o' [ZMOD 8]) (dv : List Byte) (codes : List PhaseCode) :
    advanceCodes o dv codes = advanceCodes o' dv codes := by
  simp only [advanceCodes, newCode_congr h]

/-- Settles O43: channel `d` is advanced by its own field (`advanceCodes_getD`) with the mathematical modulo
(`newCode_toNat`), and 5 and -3 are one whole turn apart. -/
theorem phaseCodeAdvance : Obligations.PhaseCodeAdvance := by
  refine ⟨fun offset dv codes d hd => ?_, advanceCodes_congr (by decide)⟩
  rw [advanceCodes_getD offset dv codes hd, newCode_toNat]

/-! ## The reference pass (R151) -/

section
variable {R : Type} [Zero R] [One R] [Add R] [Sub R] [Neg R] [Mul R] [LinearOrder R] (E : Build R) {S : Inst R}

/-- With no Data Vector waiting the codes go out as they are (R151). -/
theorem sentCodes_reference (h : S.txDvValid = false) : sentCodes E S = S.txCode := by
  simp [sentCodes, h]

/-- `ENC.SYM` on the reference pass carries the bytes of `tx_dv` along and reads none of them (R24). -/
theorem encSym_with_txDv (h : S.txDvValid = false) (dv : List Byte) :
    encSym E { S with txDv := dv } = { encSym E S with txDv := dv } := by
  have hsent : sentCodes E { S with txDv := dv } = sentCodes E S := by
    rw [sentCodes_reference E h, sentCodes_reference E (S := { S with txDv := dv }) h]
  simp only [encSym, hsent]

theorem txEncoded_with_txDv (h : S.txDvValid = false) (dv : List Byte) :
    txEncoded E { S with txDv := dv } = { txEncoded E S with txDv := dv } := by
  by_cases hseg : S.txSeg = 0
  · rw [txEncoded_fadeIn E S hseg, txEncoded_fadeIn E { S with txDv := dv } hseg, encSym_with_txDv E h]
  · rw [txEncoded_later E S hseg, txEncoded_later E { S with txDv := dv } hseg]

/-- The emitted block is read from the symbol buffer, which `tx_dv` had no part in. -/
theorem txBlock_with_txDv (h : S.txDvValid = false) (dv : List Byte) :
    txBlock E { S with txDv := dv } = txBlock E S := by
  rw [txBlock, txBlock, txEncoded_with_txDv E h]

/-- A tick that fetches no Data Vector leaves in `tx_dv` what was there; nothing else depends on it. -/
theorem txStep_with_txDv (h : S.txDvValid = false) (hfetch : txFetches E S = false) (dv ds : List Byte) :
    txStep E ds { S with txDv := dv } = { txStep E ds S with txDv := dv } := by
  have hfetch' : txFetches E { S with txDv := dv } = false := hfetch
  rw [txStep, txStep, txEncoded_with_txDv E h, hfetch, hfetch']
  rfl

/-- `FADE_IN` is not `FADE_OUT`: a symbol has at least two blocks (R10 (b), R191). -/
theorem txFetches_fadeIn (hseg : S.txSeg = 0) (hk : 2 ≤ E.cfg.k) : txFetches E S = false := by
  rw [txFetches, decide_eq_false_iff_not]
  omega

end

/-- Settles O51: both ticks run `TX.STEP`, which keeps the codes (`sentCodes_reference`) and does the same
whatever the unread bytes are (`txStep_with_txDv`, `txBlock_with_txDv`). -/
theorem referencePassReadsNoDataVector : Obligations.ReferencePassReadsNoDataVector := by
  intro s dv hact hseg hvalid hk
  have hfetch : txFetches (build s.cfg) s.inst = false := txFetches_fadeIn (build s.cfg) hseg hk
  refine ⟨_, _, exec_txtick_run hact, exec_txtick_run hact, ?_, ?_, ?_, ?_⟩
  · rw [runTxStep_inst, txStep_txCode, txEncoded_fadeIn _ _ hseg, encSym_txCode, sentCodes_reference _ hvalid]
  · rw [runTxStep_inst, txStep_txSymCnt, txEncoded_fadeIn _ _ hseg, encSym_txSymCnt]
    rfl
  · rw [runTxStep_out, runTxStep_out, machineEnv_build, txBlock_with_txDv (build s.cfg) hvalid]
    rfl
  · exact txStep_with_txDv (build s.cfg) hvalid hfetch dv _

end Sys2Proof.Machine
end

section
/-! PROOFS. The decoder (42_dqpsk_decoder.md): the fields of the decoded vector (R164 to R167), `NORM` and `SECTOR`
(R164, R165), the receive tick that decodes (R160 to R169, R197), and the laws of R172 to R174. -/

set_option linter.unusedSectionVars false

namespace Sys2Proof.Machine

/-! ## The fields of the decoded vector (R167) -/

theorem layout_d_le_dvlen (c : Cfg) : (layout c).d ≤ 4 * (layout c).dvlen := by
  cases hc : c.valid with
  | false => simp [layout_invalid hc, emptyLayout]
  | true =>
    have h := (valid_iff c).1 hc
    rw [layout_d h, layout_dvlen h, Cfg.dvlen]
    omega

/-- `n` values put one after the other into an all-zero vector of `len` bytes (`decodeFields_eq_packFields`). -/
def packFields (len n : Nat) (f : Nat → Dibit) : List Byte :=
  (List.range n).foldl (fun dv d => dvPut dv d ((f d).setWidth 8)) (List.replicate len 0)

theorem packFields_succ (len n : Nat) (f : Nat → Dibit) :
    packFields len (n + 1) f = dvPut (packFields len n f) n ((f n).setWidth 8) := by
  simp [packFields, List.range_succ]

theorem packFields_length (len n : Nat) (f : Nat → Dibit) : (packFields len n f).length = len := by
  induction n with
  | zero => exact List.length_replicate
  | succ n ih => rw [packFields_succ, dvPut_length, ih]

theorem dvGet_replicate_zero (len d : Nat) : dvGet (List.replicate len 0) d = 0 := by
  simp [dvGet]

/-- A packed vector holds its values, and 0 in the fields behind them. -/
theorem dvGet_packFields {len n : Nat} (f : Nat → Dibit) (hn : n ≤ 4 * len) (d : Nat) :
    dvGet (packFields len n f) d = if d < n then f d else 0 := by
  induction n with
  | zero => exact dvGet_replicate_zero len d
  | succ n ih =>
    have hfits : n / 4 < (packFields len n f).length := by rw [packFields_length]; omega
    rw [packFields_succ]
    rcases eq_or_ne d n with rfl | hne
    · rw [dvGet_dvPut_same _ hfits, if_pos (Nat.lt_succ_self d), BitVec.setWidth_setWidth_of_le _ (by decide),
        BitVec.setWidth_eq]
    · have hlt : d < n + 1 ↔ d < n := by omega
      simp only [dvGet_dvPut_other _ hfits hne, ih (by omega), hlt]

/-- Two Data Vectors of the same size with the same fields are equal: a byte is its four fields. -/
theorem eq_of_dvGet_eq {dv dv' : List Byte} (hlen : dv.length = dv'.length) (h : ∀ d, dvGet dv d = dvGet dv' d) :
    dv = dv' := by
  apply List.ext_getElem hlen
  intro i hi hi'
  apply BitVec.eq_of_getLsbD_eq
  intro j hj
  have hbyte : (4 * i + j / 2) / 4 = i := by omega
  have hbit : fieldShift (4 * i + j / 2) + j % 2 = j := by rw [fieldShift]; omega
  have hfield := congrArg (BitVec.getLsbD · (j % 2)) (h (4 * i + j / 2))
  simp only [dvGet_getLsbD _ _ _ (Nat.mod_lt j Nat.two_pos), hbyte, hbit] at hfield
  rwa [List.getD_eq_getElem _ _ hi, List.getD_eq_getElem _ _ hi'] at hfield

section
variable {R : Type} [Zero R] [Add R] [Sub R] [Neg R] [Mul R] [LinearOrder R] (m : Num R)

theorem decodeFields_eq_packFields (L : Layout) (angles stored : List R) : decodeFields m L angles stored =
    packFields L.dvlen L.d fun d => sector m (phaseDiff m (angles.getD d 0) (stored.getD d 0)) := rfl

/-- Field `d` is the sector of channel `d`'s own two angles (R174 (e)); the unused fields are 0. -/
theorem dvGet_decodeFields (c : Cfg) (angles stored : List R) (d : Nat) :
    dvGet (decodeFields m (layout c) angles stored) d =
      if d < (layout c).d then sector m (phaseDiff m (angles.getD d 0) (stored.getD d 0)) else 0 := by
  rw [decodeFields_eq_packFields, dvGet_packFields _ (layout_d_le_dvlen c)]

/-- The decoded vector depends on the channels' phase differences only. -/
theorem decodeFields_congr {c : Cfg} {a s a' s' : List R} (h : ∀ d < (layout c).d,
      phaseDiff m (a'.getD d 0) (s'.getD d 0) = phaseDiff m (a.getD d 0) (s.getD d 0)) :
    decodeFields m (layout c) a' s' = decodeFields m (layout c) a s := by
  apply eq_of_dvGet_eq (by rw [decodeFields_length, decodeFields_length])
  intro d
  rw [dvGet_decodeFields, dvGet_decodeFields]
  split
  · next hd => rw [h d hd]
  · rfl

/-- The angle of channel `d` is the angle of its data bin (R125, R162). -/
theorem dataAngles_demux_getD {c : Cfg} (Y : List (Cpx R)) {d : Nat} (hd : d < (layout c).d) :
    (dataAngles m (demux c Y)).getD d 0 = angle m (Y.getD ((layout c).dataBin.getD d 0) Cpx.zero) := by
  simp [dataAngles, demux, hd]

end

/-- Settles O45, field by field of the packed vector (`dvGet_decodeFields`). -/
theorem decodedFieldIsItsSector : Obligations.DecodedFieldIsItsSector := by
  intro c angles stored d hd
  rw [dvGet_decodeFields, if_pos hd]
  rfl

/-! ## `SECTOR` (R165) and `NORM` (R164) -/

section
variable {R : Type} [Field R] [LinearOrder R] [IsStrictOrderedRing R] {m : Num R} (hpos : 0 < m.halfPi)
include hpos

theorem sector_above {x : R} (h : m.halfPi < x) : sector m x = 2 := by
  rw [sector, if_pos (hpos.trans h).le, if_pos h]

omit hpos in
theorem sector_of_nonneg {x : R} (h0 : 0 ≤ x) (h : x ≤ m.halfPi) : sector m x = 3 := by
  rw [sector, if_pos h0, if_neg h.not_gt]

theorem sector_below {x : R} (h : x < -m.halfPi) : sector m x = 0 := by
  have hneg : x < 0 := h.trans (neg_lt_zero.2 hpos)
  rw [sector, if_neg hneg.not_ge, if_pos h]

omit hpos in
theorem sector_of_neg {x : R} (h : -m.halfPi ≤ x) (h0 : x < 0) : sector m x = 1 := by
  rw [sector, if_neg h0.not_ge, if_neg h.not_gt]

theorem pi_pos_of_halfPi : 0 < m.pi := add_pos hpos hpos

theorem twoPi_pos_of_halfPi : 0 < m.twoPi := add_pos (pi_pos_of_halfPi hpos) (pi_pos_of_halfPi hpos)

/-- One correction step is enough for a difference of two angles (R164). -/
theorem normAngle_range {x : R} (h1 : -m.twoPi ≤ x) (h2 : x ≤ m.twoPi) :
    -m.pi ≤ normAngle m x ∧ normAngle m x < m.pi := by
  have htwo : m.twoPi = m.pi + m.pi := rfl
  have hhalves : x / 2 - -(x / 2) = x := by ring
  rw [← hhalves]
  exact normAngle_sub_range (pi_pos_of_halfPi hpos) ⟨by linarith, by linarith⟩ ⟨by linarith, by linarith⟩

omit hpos in
theorem normAngle_cases (m : Num R) (x : R) :
    normAngle m x = x ∨ normAngle m x = x - m.twoPi ∨ normAngle m x = x + m.twoPi := by
  unfold normAngle
  split
  · exact .inr (.inl rfl)
  · split
    · exact .inr (.inr rfl)
    · exact .inl rfl

omit hpos in
/-- `NORM` adds whole turns. -/
theorem exists_turns_normAngle (m : Num R) (x : R) : ∃ k : Int, x = normAngle m x + k * m.twoPi := by
  rcases normAngle_cases m x with h | h | h
  · exact ⟨0, by rw [h]; push_cast; ring⟩
  · exact ⟨1, by rw [h]; push_cast; ring⟩
  · exact ⟨-1, by rw [h]; push_cast; ring⟩

/-- Two angles of `[-PI, PI)` that are whole turns apart are the same. -/
theorem turns_eq_zero {y : R} {k : Int} (h1 : -m.pi ≤ y ∧ y < m.pi)
    (h2 : -m.pi ≤ y + k * m.twoPi ∧ y + k * m.twoPi < m.pi) : k = 0 := by
  have htwo : m.twoPi = m.pi + m.pi := rfl
  have hturn := twoPi_pos_of_halfPi hpos
  have hupper : (k : R) < 1 := lt_of_mul_lt_mul_right (by linarith : (k : R) * m.twoPi < 1 * m.twoPi) hturn.le
  have hlower : (-1 : R) < k := lt_of_mul_lt_mul_right (by linarith : -1 * m.twoPi < (k : R) * m.twoPi) hturn.le
  have hupper' : k < 1 := by exact_mod_cast hupper
  have hlower' : -1 < k := by exact_mod_cast hlower
  omega

/-- `NORM` of a difference of two angles is the one angle of `[-PI, PI)` that is whole turns away (R164). -/
theorem normAngle_eq_of_turns {x y : R} (k : Int) (h1 : -m.twoPi ≤ x) (h2 : x ≤ m.twoPi)
    (hy : -m.pi ≤ y ∧ y < m.pi) (h : x = y + k * m.twoPi) : normAngle m x = y := by
  obtain ⟨j, hj⟩ := exists_turns_normAngle m x
  have hsame : normAngle m x = y + (k - j : Int) * m.twoPi := by
    push_cast
    linarith
  have hzero : k - j = 0 := turns_eq_zero hpos hy (hsame ▸ normAngle_range hpos h1 h2)
  rw [hsame, hzero, Int.cast_zero, zero_mul, add_zero]

/-- Two pairs of angles whose advances are whole turns apart have the same phase difference (R174 (b)). -/
theorem phaseDiff_eq_of_turns {a s a' s' : R} (k : Int) (ha : -m.pi ≤ a ∧ a ≤ m.pi) (hs : -m.pi ≤ s ∧ s ≤ m.pi)
    (ha' : -m.pi ≤ a' ∧ a' ≤ m.pi) (hs' : -m.pi ≤ s' ∧ s' ≤ m.pi) (h : a' - s' = a - s + k * m.twoPi) :
    phaseDiff m a' s' = phaseDiff m a s := by
  have htwo : m.twoPi = m.pi + m.pi := rfl
  obtain ⟨ha1, ha2⟩ := ha
  obtain ⟨hs1, hs2⟩ := hs
  obtain ⟨ha1', ha2'⟩ := ha'
  obtain ⟨hs1', hs2'⟩ := hs'
  obtain ⟨j, hj⟩ := exists_turns_normAngle m (-(a - s))
  refine normAngle_eq_of_turns hpos (j - k) (by linarith) (by linarith)
    (normAngle_range hpos (by linarith) (by linarith)) ?_
  rw [phaseDiff]
  push_cast
  linarith

end

/-- Settles O46, threshold by threshold; at each the sector is the one whose interval holds it. -/
theorem sectorSplit : Obligations.SectorSplit := by
  intro R _ _ _ m x hpos
  exact ⟨sector_above hpos, sector_of_nonneg, sector_below hpos, sector_of_neg⟩

/-- Settles O47: the range and the whole turn determine `NORM` (`normAngle_eq_of_turns`), so each corner case is the
number of turns it takes. -/
theorem normIntoRange : Obligations.NormIntoRange := by
  intro R _ _ _ m hpos
  have hpi : m.pi = m.halfPi + m.halfPi := rfl
  have htwo : m.twoPi = m.pi + m.pi := rfl
  have corner {x y : R} (k : Int) (hx : -m.twoPi ≤ x ∧ x ≤ m.twoPi) (hy : -m.pi ≤ y ∧ y < m.pi)
      (h : x = y + k * m.twoPi) : normAngle m x = y := normAngle_eq_of_turns hpos k hx.1 hx.2 hy h
  refine ⟨fun x h1 h2 => ?_, corner 1 ⟨?_, ?_⟩ ⟨?_, ?_⟩ ?_, corner 0 ⟨?_, ?_⟩ ⟨?_, ?_⟩ ?_,
    corner 1 ⟨?_, ?_⟩ ⟨?_, ?_⟩ ?_, corner (-1) ⟨?_, ?_⟩ ⟨?_, ?_⟩ ?_, corner 1 ⟨?_, ?_⟩ ⟨?_, ?_⟩ ?_,
    corner (-1) ⟨?_, ?_⟩ ⟨?_, ?_⟩ ?_, fun _ _ => rfl⟩
  · obtain ⟨hlow, hhigh⟩ := normAngle_range hpos h1 h2
    exact ⟨hlow, hhigh, normAngle_cases m x⟩
  all_goals
    push_cast
    linarith

/-! ## The receive tick that decodes (R160 to R169, R197) -/

section
variable {R : Type} [Zero R] [One R] [Add R] [Sub R] [Neg R] [Mul R] [LinearOrder R]

/-- A receive tick whose block fills the buffer: the samples are stored, the decoder runs and the index starts over. -/
theorem runRxPush_decode (X : Env R) (v : Bool) {s : Sys R} (hb : 1 ≤ s.cfg.b) (hn : s.inst.rxIdx + s.cfg.b = s.cfg.n) :
    runRxPush X v s =
      s.finish { decSym (X.build s.cfg) (storeBlock s.inst (rxBlock X v s)) with rxIdx := 0 }
        { rc := if v then .ok else .starvedInput
          listener := decEvents (X.build s.cfg) (storeBlock s.inst (rxBlock X v s)) } := by
  have hlen := rxBlock_length X v s
  have hne : rxBlock X v s ≠ [] := List.ne_nil_of_length_pos (hlen.symm ▸ hb)
  rw [runRxPush, rxPush_decode (X.build s.cfg) _ s.inst hne (hlen.symm ▸ hn)]

end

/-- Settles O22: the tick stores its block and decodes the buffer (`runRxPush_decode`); storing touches the buffer and
the index only (`storeBlock_eq`), so the rest of the next state is `decSym` on the old elements. -/
theorem receiveTickDecodes : Obligations.ReceiveTickDecodes := by
  intro v s hact hwf hb hn
  have hlen : (rxBlock machineEnv v s.toSys).length = s.cfg.b := rxBlock_length machineEnv v s.toSys
  refine ⟨rxBlock machineEnv v s.toSys, (storeBlock s.inst (rxBlock machineEnv v s.toSys)).rxBuf, hlen, ?_, ?_, ?_, ?_⟩
  · rintro rfl x hx
    exact List.eq_of_mem_replicate hx
  · rintro rfl hwhole
    exact rxBlock_whole machineEnv hwhole
  · intro a
    rw [storeBlock_read _ _ _ hwf, hlen]
    rfl
  · rw [exec_rxtick_run v hact, runRxPush_decode machineEnv v hb hn, storeBlock_eq]
    rfl

/-! ## Silent symbols (R174 (a)) -/

section
variable {R : Type} [Field R] [LinearOrder R] [IsStrictOrderedRing R] {m : Num R} (hpos : 0 < m.halfPi)
include hpos

/-- An angle that has not moved has phase difference 0. -/
theorem phaseDiff_self (a : R) : phaseDiff m a a = 0 := by
  have hpi := pi_pos_of_halfPi hpos
  have htwo := twoPi_pos_of_halfPi hpos
  rw [phaseDiff, sub_self, neg_zero]
  exact normAngle_eq_of_turns hpos 0 (neg_nonpos.2 htwo.le) htwo.le ⟨neg_nonpos.2 hpi.le, hpi⟩ (by simp)

end

/-- Settles O53: every channel has the angle `ATAN2(0, 0)` in both symbols, so its phase difference is 0
(`phaseDiff_self`), which is in sector 3. -/
theorem silentSymbolsDecodeToThree : Obligations.SilentSymbolsDecodeToThree := by
  intro R _ _ _ E S buf hpos hfirst hsecond d hd
  have hsilent : ∀ Y : List (Cpx R), (∀ i, Y.getD i Cpx.zero = Cpx.zero) →
      (dataAngles E.num (demux E.cfg Y)).getD d 0 = angle E.num Cpx.zero := fun Y hY => by
    rw [dataAngles_demux_getD _ _ hd, hY]
  have hnew : rxSpectrum E { decSym E S with rxBuf := buf } = rxSpectrum E { S with rxBuf := buf } := rfl
  rw [decodedDv, dvGet_decodeFields, if_pos hd, decSym_rxPhase, hnew, hsilent _ hfirst, hsilent _ hsecond,
    phaseDiff_self hpos, sector_of_nonneg le_rfl hpos.le]

/-! ## The angles of the reference semantics -/

/-- A point as a complex number. -/
def complexOf (p : Cpx ℝ) : ℂ := ⟨p.re, p.im⟩

theorem complexOf_ne_zero {p : Cpx ℝ} (hp : p ≠ Cpx.zero) : complexOf p ≠ 0 := by
  intro h
  obtain ⟨hre, him⟩ := Complex.ext_iff.1 h
  cases p
  cases hre
  cases him
  exact hp rfl

/-- A turn by `φ` and a scaling by `g` are a complex factor. -/
theorem complexOf_rotate (g φ : ℝ) (p : Cpx ℝ) :
    complexOf (rotate g φ p) = (g : ℂ) * ((Complex.cos φ + Complex.sin φ * Complex.I) * complexOf p) := by
  apply Complex.ext
  · simp [rotate, complexOf, Complex.cos_ofReal_re, Complex.sin_ofReal_re]
  · simp [rotate, complexOf, Complex.cos_ofReal_re, Complex.sin_ofReal_re, add_comm]

theorem turn_ne_zero (φ : ℝ) : Complex.cos φ + Complex.sin φ * Complex.I ≠ 0 := by
  rw [← Complex.exp_mul_I]
  exact Complex.exp_ne_zero _

theorem refNum_halfPi_pos (z : ℝ) : 0 < (refNum z).halfPi := Real.pi_div_two_pos

/-- Away from `(0, 0)` the reference `ATAN2` is the principal angle. -/
theorem refNum_angle_eq_arg (z : ℝ) {p : Cpx ℝ} (hp : p ≠ Cpx.zero) :
    angle (refNum z) p = Complex.arg (complexOf p) := by
  have hne : ¬ (p.re = 0 ∧ p.im = 0) := by
    rintro ⟨hre, him⟩
    exact complexOf_ne_zero hp (Complex.ext hre him)
  exact if_neg hne

theorem refNum_angle_range (z : ℝ) {p : Cpx ℝ} (hp : p ≠ Cpx.zero) :
    -(refNum z).pi ≤ angle (refNum z) p ∧ angle (refNum z) p ≤ (refNum z).pi := by
  rw [refNum_angle_eq_arg z hp, refNum_pi]
  exact ⟨(Complex.neg_pi_lt_arg _).le, Complex.arg_le_pi _⟩

section
variable {g : ℝ} (hg : 0 < g) (φ : ℝ) {p : Cpx ℝ} (hp : p ≠ Cpx.zero)
include hg hp

theorem rotate_ne_zero : rotate g φ p ≠ Cpx.zero := by
  intro h
  have hzero : complexOf (rotate g φ p) = 0 := by rw [h]; rfl
  rw [complexOf_rotate] at hzero
  exact mul_ne_zero (Complex.ofReal_ne_zero.2 hg.ne') (mul_ne_zero (turn_ne_zero φ) (complexOf_ne_zero hp)) hzero

/-- A turned and scaled point has the turned angle, up to whole turns (R174 (b), (d)). -/
theorem refNum_angle_rotate (z : ℝ) :
    ∃ k : Int, angle (refNum z) (rotate g φ p) = angle (refNum z) p + φ + k * (refNum z).twoPi := by
  have hangle : ((Complex.arg (complexOf (rotate g φ p)) : ℝ) : Real.Angle) =
      (Complex.arg (complexOf p) + φ : ℝ) := by
    rw [complexOf_rotate, Complex.arg_real_mul _ hg, Complex.arg_mul_coe_angle (turn_ne_zero φ) (complexOf_ne_zero hp),
      Real.Angle.coe_add, add_comm]
    congr 1
    simpa using Complex.arg_cos_add_sin_mul_I_coe_angle (φ : Real.Angle)
  obtain ⟨k, hk⟩ := Real.Angle.angle_eq_iff_two_pi_dvd_sub.1 hangle
  refine ⟨k, ?_⟩
  rw [refNum_angle_eq_arg z hp, refNum_angle_eq_arg z (rotate_ne_zero hg φ hp), refNum_twoPi]
  linarith

end

/-- Settles O54: a turn in both symbols leaves the advance of the angle, so the phase differences are the same up to
whole turns (`phaseDiff_eq_of_turns`); a turned point has the turned angle (`refNum_angle_rotate`). -/
theorem constantRotationCancels : Obligations.ConstantRotationCancels := by
  refine ⟨fun R _ _ _ m c a s a' s' hrot => ?_, fun R _ _ _ m c a s a' s' hpos hrange hrot => ?_,
    fun z c Y T Y' T' hc hrot => ?_⟩
  · refine decodeFields_congr m fun d hd => ?_
    obtain ⟨φ, ha, hs⟩ := hrot d hd
    rw [ha, hs, phaseDiff, phaseDiff, add_sub_add_right_eq_sub]
  · refine decodeFields_congr m fun d hd => ?_
    obtain ⟨φ, i, j, ha, hs⟩ := hrot d hd
    refine phaseDiff_eq_of_turns hpos (i - j) (hrange a (by simp) d hd) (hrange s (by simp) d hd)
      (hrange a' (by simp) d hd) (hrange s' (by simp) d hd) ?_
    rw [ha, hs]
    push_cast
    ring
  · refine decodeFields_congr _ fun d hd => ?_
    have hbin : (layout c).dataBin.getD d 0 ∈ (layout c).dataBin := by
      rw [List.getD_eq_getElem _ _ (by simpa using hd)]
      exact List.getElem_mem _
    obtain ⟨hY, hT, φ, g, h, hg, hh, hY', hT'⟩ := hrot _ hbin
    obtain ⟨i, hi⟩ := refNum_angle_rotate hg φ hY z
    obtain ⟨j, hj⟩ := refNum_angle_rotate hh φ hT z
    rw [dataAngles_demux_getD _ _ hd, dataAngles_demux_getD _ _ hd, dataAngles_demux_getD _ _ hd,
      dataAngles_demux_getD _ _ hd, hY', hT']
    refine phaseDiff_eq_of_turns (refNum_halfPi_pos z) (i - j) (refNum_angle_range z hY) (refNum_angle_range z hT)
      (refNum_angle_range z (rotate_ne_zero hg φ hY)) (refNum_angle_range z (rotate_ne_zero hh φ hT)) ?_
    rw [hi, hj]
    push_cast
    ring

/-! ## The encoder's output fed straight to the decoder (R172, R173) -/

section
variable {R : Type} [Zero R] [One R] [Add R] [Sub R] [Neg R] [Mul R] [LinearOrder R] (E : Build R)

/-- The angles at the data bins when the symbol of `codes` goes straight to the decoder (`decodedDv_loopReceiver`). -/
def loopAngles (codes : List PhaseCode) : List R :=
  dataAngles E.num (demux E.cfg (loopback E (txSpectrum E codes)))

/-- The receiver of R172: it has decoded the transmitter's last symbol and holds the next one. -/
def loopReceiver (S T : Inst R) : Inst R :=
  { decSym E { T with rxBuf := ingest E S.txBuf } with rxBuf := ingest E (encSym E S).txBuf }

theorem Mem.toVec_ofList_of_length {n : Nat} {l : List (Cpx R)} (h : l.length = n) :
    Mem.toVec (Mem.ofList l) n = l := h ▸ Mem.toVec_ofList l

/-- The spectrum received of a symbol that was sent and ingested. -/
theorem forward_ingest (X : List (Cpx R)) :
    forward E (Mem.toVec (ingest E (Mem.ofList (inverse E X))) E.cfg.n) = loopback E X := by
  rw [ingest, Mem.toVec_ofList_of_length (inverse_length E X), Mem.toVec_ofList_of_length (by simp), loopback]

/-- What the receiver delivers is decoded from the angles of the new codes against those of the old ones. -/
theorem decodedDv_loopReceiver {S : Inst R} (T : Inst R)
    (hbuf : S.txBuf = Mem.ofList (inverse E (txSpectrum E S.txCode))) :
    decodedDv E (loopReceiver E S T) =
      decodeFields E.num (layout E.cfg) (loopAngles E (sentCodes E S)) (loopAngles E S.txCode) := by
  simp only [decodedDv, loopReceiver, decSym_rxPhase, rxSpectrum, encSym_txBuf, hbuf, forward_ingest, loopAngles]

theorem loopAngles_getD (codes : List PhaseCode) {d : Nat} (hd : d < (layout E.cfg).d) :
    (loopAngles E codes).getD d 0 =
      angle E.num ((loopback E (txSpectrum E codes)).getD ((layout E.cfg).dataBin.getD d 0) Cpx.zero) :=
  dataAngles_demux_getD _ _ hd

theorem isActive_layout_dataBin (h : ValidFacts E.cfg) {d : Nat} (hd : d < (layout E.cfg).d) :
    isActive E.cfg ((layout E.cfg).dataBin.getD d 0) = true := by
  rw [layout_d h] at hd
  rw [layout_dataBin_getD h hd]
  exact (isActive_iff_bin h).2 (.inl ⟨d, hd, rfl⟩)

/-- The transmit spectrum holds at the data bin of channel `d` the point of its phase code (R146, R148). -/
theorem txSpectrum_dataBin (h : ValidFacts E.cfg) {codes : List PhaseCode} (hlen : codes.length = (layout E.cfg).d)
    {d : Nat} (hd : d < (layout E.cfg).d) :
    (txSpectrum E codes).getD ((layout E.cfg).dataBin.getD d 0) Cpx.zero = point E.num (codes.getD d 0) := by
  have hcode : d < codes.length := hlen.symm ▸ hd
  rw [txSpectrum, mux_getD_active h _ _ (isActive_layout_dataBin E h hd), binPoint,
    layout_dataBin_getD h (layout_d h ▸ hd), role_dataBin h (layout_d h ▸ hd)]
  simp [hcode]

end

/-- Channel `d` of a symbol comes back with the angle of its phase code times `σ`, up to a positive gain: `σ = -1` for a
pair that conjugates (`loopTurns_of_conj`), `σ = 1` for one that does not (`loopTurns_of_plain`). -/
def LoopTurns (E : Build ℝ) (σ : Int) : Prop :=
  ∀ codes : List PhaseCode, codes.length = (layout E.cfg).d → ∀ d < (layout E.cfg).d, ∃ g : ℝ, 0 < g ∧
    (loopback E (txSpectrum E codes)).getD ((layout E.cfg).dataBin.getD d 0) Cpx.zero =
      rotate g (σ * ((codes.getD d 0).toNat * (Real.pi / 4))) ⟨1, 0⟩

section
variable {E : Build ℝ} {z : ℝ} (hnum : E.num = refNum z) (h : ValidFacts E.cfg)
include hnum h

/-- A pair that returns every spectrum with `σ` on the imaginary parts turns each code's angle by that sign. -/
theorem loopTurns_of_sign {σ : Int} (hσ : σ = 1 ∨ σ = -1)
    (hloop : ∀ codes : List PhaseCode, codes.length = (layout E.cfg).d → ∃ g : ℝ, 0 < g ∧
      ∀ i, isActive E.cfg i = true → (loopback E (txSpectrum E codes)).getD i Cpx.zero =
        ⟨g * ((txSpectrum E codes).getD i Cpx.zero).re, g * (σ * ((txSpectrum E codes).getD i Cpx.zero).im)⟩) :
    LoopTurns E σ := by
  intro codes hlen d hd
  obtain ⟨g, hg, hpoint⟩ := hloop codes hlen
  refine ⟨g, hg, ?_⟩
  rw [hpoint _ (isActive_layout_dataBin E h hd), txSpectrum_dataBin E h hlen hd, hnum, refNum_point_eq_cos_sin]
  rcases hσ with rfl | rfl
  · simp [rotate]
  · simp [rotate]

theorem loopTurns_of_conj (hloop : LoopbackConj E) : LoopTurns E (-1) :=
  loopTurns_of_sign hnum h (.inr rfl) (by simpa [LoopbackConj] using hloop)

theorem loopTurns_of_plain (hloop : LoopbackPlain E) : LoopTurns E 1 :=
  loopTurns_of_sign hnum h (.inl rfl) (by simpa [LoopbackPlain] using hloop)

omit h in
/-- The received angle of a channel is that of its phase code times `σ`, up to whole turns. -/
theorem loopAngles_turned {σ : Int} (hloop : LoopTurns E σ) {codes : List PhaseCode}
    (hlen : codes.length = (layout E.cfg).d) {d : Nat} (hd : d < (layout E.cfg).d) :
    (-(refNum z).pi ≤ (loopAngles E codes).getD d 0 ∧ (loopAngles E codes).getD d 0 ≤ (refNum z).pi) ∧
    ∃ k : Int, (loopAngles E codes).getD d 0 =
      σ * ((codes.getD d 0).toNat * (Real.pi / 4)) + k * (refNum z).twoPi := by
  have hone : (⟨1, 0⟩ : Cpx ℝ) ≠ Cpx.zero := fun he => one_ne_zero (congrArg Cpx.re he)
  have hzero : angle (refNum z) ⟨1, 0⟩ = 0 := (refNum_angle_eq_arg z hone).trans Complex.arg_one
  obtain ⟨g, hg, hpoint⟩ := hloop codes hlen d hd
  rw [loopAngles_getD E codes hd, hpoint, hnum]
  refine ⟨refNum_angle_range z (rotate_ne_zero hg _ hone), ?_⟩
  obtain ⟨k, hk⟩ := refNum_angle_rotate hg (σ * ((codes.getD d 0).toNat * (Real.pi / 4))) hone z
  exact ⟨k, by rw [hk, hzero, zero_add]⟩

end

/-! ## Phase differences in eighths of a turn -/

/-- The sector of `e` eighths of a turn (`refNum_sector_eighths`). -/
def eighthsSector (e : Int) : Dibit :=
  if 0 ≤ e then (if 2 < e then 2 else 3) else (if e < -2 then 0 else 1)

theorem refNum_sector_eighths (z : ℝ) (e : Int) : sector (refNum z) (e * (Real.pi / 4)) = eighthsSector e := by
  have heighth : 0 < Real.pi / 4 := by positivity
  have hquarter : (refNum z).halfPi = (2 : Int) * (Real.pi / 4) := by
    change Real.pi / 2 = _
    push_cast
    ring
  have hneg : -((2 : Int) * (Real.pi / 4)) = ((-2 : Int) : ℝ) * (Real.pi / 4) := by push_cast; ring
  have hnonneg : 0 ≤ (e : ℝ) * (Real.pi / 4) ↔ 0 ≤ e := by
    rw [mul_nonneg_iff_of_pos_right heighth, Int.cast_nonneg_iff]
  simp only [sector, eighthsSector, hquarter, hneg, mul_lt_mul_iff_left₀ heighth, Int.cast_lt, hnonneg]

/-- `n` eighths of a turn, brought into `[-4, 4)`, are a phase difference: the one of any two angles of `[-PI, PI]`
whose advance is `-n` eighths up to whole turns (R164). -/
theorem refNum_phaseDiff_eighths {z a s : ℝ} (n : Int) (ha : -(refNum z).pi ≤ a ∧ a ≤ (refNum z).pi)
    (hs : -(refNum z).pi ≤ s ∧ s ≤ (refNum z).pi) {k : Int}
    (h : -(a - s) = n * (Real.pi / 4) + k * (refNum z).twoPi) :
    phaseDiff (refNum z) a s = Int.bmod n 8 * (Real.pi / 4) := by
  have heighth : 0 < Real.pi / 4 := by positivity
  have hlow : (-4 : ℝ) ≤ (Int.bmod n 8 : Int) := by exact_mod_cast Int.le_bmod (x := n) (m := 8) (by decide)
  have hhigh : ((Int.bmod n 8 : Int) : ℝ) < 4 := by exact_mod_cast Int.bmod_lt (x := n) (m := 8) (by decide)
  have hhigh' := mul_lt_mul_of_pos_right hhigh heighth
  have hlow' := mul_le_mul_of_nonneg_right hlow heighth.le
  obtain ⟨j, hj⟩ : ∃ j, n = Int.bmod n 8 + 8 * j := ⟨_, (Int.bmod_add_bdiv n 8).symm⟩
  have hn : (n : ℝ) = (Int.bmod n 8 : Int) + 8 * j := by exact_mod_cast hj
  rw [refNum_twoPi] at h
  rw [refNum_pi] at ha hs
  refine normAngle_eq_of_turns (refNum_halfPi_pos z) (j + k) ?_ ?_ ?_ ?_
  · rw [refNum_twoPi]; linarith
  · rw [refNum_twoPi]; linarith
  · rw [refNum_pi]
    constructor
    · linarith
    · linarith
  · rw [refNum_twoPi, h, hn]
    push_cast
    ring

/-! ## The fields that come back -/

section
variable {E : Build ℝ} {z : ℝ} (hnum : E.num = refNum z) {σ : Int} (hloop : LoopTurns E σ) {S : Inst ℝ}
  (hdv : S.txDvValid = true) (hcodes : S.txCode.length = (layout E.cfg).d)
include hnum hloop hdv hcodes

/-- A channel whose code moves by `2*GRAY[b] + OFFSET` eighths shows a phase difference of `-σ` times as many. -/
theorem phaseDiff_loopAngles {d : Nat} (hd : d < (layout E.cfg).d) :
    phaseDiff (refNum z) ((loopAngles E (sentCodes E S)).getD d 0) ((loopAngles E S.txCode).getD d 0) =
      Int.bmod (-σ * (2 * (gray (dvGet S.txDv d)).toNat + E.cfg.offset)) 8 * (Real.pi / 4) := by
  obtain ⟨hold, i, hi⟩ := loopAngles_turned hnum hloop hcodes hd
  obtain ⟨hnew, j, hj⟩ := loopAngles_turned hnum hloop ((sentCodes_length E S).trans hcodes) hd
  have hcode : (sentCodes E S).getD d 0 = newCode E.cfg.offset (S.txCode.getD d 0) (dvGet S.txDv d) := by
    rw [sentCodes, if_pos hdv, advanceCodes_getD _ _ _ (hcodes.symm ▸ hd)]
  obtain ⟨k, hk⟩ : ∃ k : Int, (((sentCodes E S).getD d 0).toNat : Int) =
      (S.txCode.getD d 0).toNat + 2 * (gray (dvGet S.txDv d)).toNat + E.cfg.offset - 8 * k := by
    rw [hcode, newCode_toNat]
    exact ⟨_, Int.emod_def _ _⟩
  have hk' : (((sentCodes E S).getD d 0).toNat : ℝ) =
      (S.txCode.getD d 0).toNat + 2 * (gray (dvGet S.txDv d)).toNat + E.cfg.offset - 8 * k := by exact_mod_cast hk
  refine refNum_phaseDiff_eighths _ hnew hold (k := σ * k - j + i) ?_
  rw [hi, hj, hk', refNum_twoPi]
  push_cast
  ring

/-- The field the receiver delivers for a channel, from the field that was sent. -/
theorem dvGet_loopReceiver (T : Inst ℝ) (hbuf : S.txBuf = Mem.ofList (inverse E (txSpectrum E S.txCode))) {d : Nat}
    (hd : d < (layout E.cfg).d) :
    dvGet (decodedDv E (loopReceiver E S T)) d =
      eighthsSector (Int.bmod (-σ * (2 * (gray (dvGet S.txDv d)).toNat + E.cfg.offset)) 8) := by
  rw [decodedDv_loopReceiver E T hbuf, dvGet_decodeFields, if_pos hd, hnum,
    phaseDiff_loopAngles hnum hloop hdv hcodes hd, refNum_sector_eighths]

end

theorem conj_offset_five : ∀ b : Dibit,
    eighthsSector (Int.bmod (-(-1) * (2 * (gray b).toNat + 5)) 8) = b := by decide

theorem plain_offset_five : ∀ b : Dibit,
    eighthsSector (Int.bmod (-1 * (2 * (gray b).toNat + 5)) 8) = b ^^^ 2 := by decide

theorem plain_offset_three : ∀ b : Dibit,
    eighthsSector (Int.bmod (-1 * (2 * (gray b).toNat + 3)) 8) = [0, 2, 1, 3].getD b.toNat 0 := by decide

theorem conj_offset_three : ∀ b : Dibit,
    eighthsSector (Int.bmod (-(-1) * (2 * (gray b).toNat + 3)) 8) = [2, 0, 3, 1].getD b.toNat 0 := by decide

/-- Settles O55: each field comes back (`dvGet_loopReceiver`, `conj_offset_five`) and the unused ones are 0
(`dvGet_decodeFields`), so a vector of the right size comes back whole (`eq_of_dvGet_eq`). -/
theorem loopbackRoundTrip : Obligations.LoopbackRoundTrip := by
  intro c x z S T E hc hoffset hconj hdv hcodes hbuf T1 T2
  have h := (valid_iff c).1 hc
  have hfields : ∀ d < (layout c).d, dvGet (decodedDv E T2) d = dvGet S.txDv d := fun d hd => by
    have hfield := dvGet_loopReceiver (E := E) rfl (loopTurns_of_conj rfl h hconj) hdv hcodes T hbuf hd
    rwa [show E.cfg.offset = 5 from hoffset, conj_offset_five] at hfield
  refine ⟨decodedDv E T2, rfl, hfields, fun hlen hunused => ?_⟩
  refine eq_of_dvGet_eq ((decodedDv_length E T2).trans hlen.symm) fun d => ?_
  by_cases hd : d < (layout c).d
  · exact hfields d hd
  · rw [decodedDv, dvGet_decodeFields, if_neg hd, hunused d (not_lt.1 hd)]

/-- Settles O56: the field that comes back is `dvGet_loopReceiver`'s, one table for each sign and offset. -/
theorem otherChoicesPermuteFields : Obligations.OtherChoicesPermuteFields := by
  intro c x z S T d E hc hdv hcodes hbuf hd T1 T2 b
  have h := (valid_iff c).1 hc
  have hfield {σ : Int} (hloop : LoopTurns E σ) := dvGet_loopReceiver rfl hloop hdv hcodes T hbuf hd
  refine ⟨fun hplain hoffset => ?_, fun hplain hoffset => ?_, fun hconj hoffset => ?_⟩
  · exact (hfield (loopTurns_of_plain rfl h hplain)).trans (hoffset ▸ plain_offset_five b)
  · exact (hfield (loopTurns_of_plain rfl h hplain)).trans (hoffset ▸ plain_offset_three b)
  · exact (hfield (loopTurns_of_conj rfl h hconj)).trans (hoffset ▸ conj_offset_three b)

end Sys2Proof.Machine
end

section
/-! PROOFS. The pilot tracker (43_pilot_tracker.md): no command but `RDPLT` reads the pilot averages (R182), and the
smoothing converges geometrically (R181, R183). -/

set_option linter.unusedSectionVars false

namespace Sys2Proof.Machine

/-! ## Noninterference of the pilot averages (R182) -/

/-- `S` without its pilot averages: two instances that differ in these only are the same after it. -/
def Inst.clearPlt {R : Type} (S : Inst R) : Inst R := { S with pltAvg := [] }

/-- The block without its pilot averages. -/
def Sys.clearPlt {R : Type} [Zero R] (s : Sys R) : Sys R := { s with inst := s.inst.clearPlt }

/-- A response without the data value, which only `RDPLT` sets (R95). -/
def ResponseOf.clearValue {R : Type} [Zero R] (r : ResponseOf R) : ResponseOf R := { r with value := 0 }

/-- Instances that agree without the pilot averages are equal once they have the same ones. -/
theorem with_pltAvg_eq_of_clearPlt {R : Type} {S T : Inst R} (h : S.clearPlt = T.clearPlt) :
    { S with pltAvg := T.pltAvg } = T :=
  congrArg (fun U : Inst R => { U with pltAvg := T.pltAvg }) h

section
variable {R : Type} [Zero R] [One R] [Add R] [Sub R] [Neg R] [Mul R] [LinearOrder R]

section
variable (E : Build R)

theorem txEncoded_clearPlt (S : Inst R) : txEncoded E S.clearPlt = (txEncoded E S).clearPlt := by
  by_cases hseg : S.txSeg = 0
  · rw [txEncoded_fadeIn E S hseg, txEncoded_fadeIn E S.clearPlt hseg]
    rfl
  · rw [txEncoded_later E S hseg, txEncoded_later E S.clearPlt hseg]

/-- The transmit scheduler reads no pilot average. -/
theorem txStep_clearPlt (dv : List Byte) (S : Inst R) : txStep E dv S.clearPlt = (txStep E dv S).clearPlt := by
  rw [txStep, txStep, txEncoded_clearPlt]
  rfl

theorem txBlock_clearPlt (S : Inst R) : txBlock E S.clearPlt = txBlock E S := by
  rw [txBlock, txBlock, txEncoded_clearPlt]
  rfl

/-- A turn of the loop of `RX.PUSH`: the decoder hands the pilot averages to `PLT.UPD`, which makes none out of none,
and neither its other elements nor the Data Vector it delivers depend on them. -/
theorem pushSample_clearPlt (acc : Inst R × List (List Byte)) (x : R) :
    pushSample E (acc.map Inst.clearPlt id) x = (pushSample E acc x).map Inst.clearPlt id := by
  by_cases hfull : (storeSample acc.1 x).rxIdx = E.cfg.n
  · have hfull' : (storeSample acc.1.clearPlt x).rxIdx = E.cfg.n := hfull
    simp only [pushSample, Prod.map, if_pos hfull, if_pos hfull']
    rfl
  · have hfull' : ¬ (storeSample acc.1.clearPlt x).rxIdx = E.cfg.n := hfull
    simp only [pushSample, Prod.map, if_neg hfull, if_neg hfull']
    rfl

theorem rxPush_clearPlt (blk : List R) (S : Inst R) :
    rxPush E blk S.clearPlt = (rxPush E blk S).map Inst.clearPlt id :=
  List.foldl_hom (Prod.map Inst.clearPlt id) (pushSample_clearPlt E) (l := blk) (init := (S, []))

end

section
variable (X : Env R) (s : Sys R)

theorem runTxStep_clearPlt : runTxStep X s.clearPlt = (runTxStep X s).clearPlt := by
  have hinst : s.clearPlt.inst = s.inst.clearPlt := rfl
  rw [runTxStep, hinst, txStep_clearPlt, txBlock_clearPlt]
  rfl

theorem runRxPush_clearPlt (v : Bool) : runRxPush X v s.clearPlt = (runRxPush X v s).clearPlt := by
  have hinst : s.clearPlt.inst = s.inst.clearPlt := rfl
  rw [runRxPush, hinst, rxPush_clearPlt]
  rfl

/-- Every command but `RDPLT` does the same, answer included, whatever the pilot averages are (R182). -/
theorem exec_clearPlt {i : Instr} (hi : ∀ p, i ≠ .rdplt p) :
    (s.clearPlt.exec X i).clearPlt = (s.exec X i).clearPlt := by
  have hactive : s.clearPlt.inst.active = s.inst.active := rfl
  cases i with
  | txtick a =>
    rw [Sys_exec_txtick, Sys_exec_txtick, hactive, runTxStep_clearPlt]
    split
    · rfl
    · split <;> rfl
  | rxtick v =>
    rw [Sys_exec_rxtick, Sys_exec_rxtick, hactive, runRxPush_clearPlt]
    split <;> rfl
  | rdplt p => exact absurd rfl (hi p)
  | nop | rst | rdsts | rdtxc | rdrxc | reserved _ => rfl

/-- `RDPLT` changes nothing, and only its data value depends on the pilot averages (R184, R227). -/
theorem exec_rdplt_clearPlt (p : Nat) :
    (s.clearPlt.exec X (.rdplt p)).inst.clearPlt = (s.exec X (.rdplt p)).inst.clearPlt ∧
      (s.clearPlt.exec X (.rdplt p)).out.map ResponseOf.clearValue =
        (s.exec X (.rdplt p)).out.map ResponseOf.clearValue := by
  have hcfg : s.clearPlt.cfg = s.cfg := rfl
  rw [Sys_exec_rdplt, Sys_exec_rdplt, hcfg]
  split <;> exact ⟨rfl, rfl⟩

end

/-- Two blocks that differ in the pilot averages only: after any command the instances still do, and the answers are
the same, that of `RDPLT` but for its data value. -/
theorem exec_agrees_of_clearPlt (X : Env R) (i : Instr) {s s' : Sys R} (h : s'.clearPlt = s.clearPlt) :
    (s'.exec X i).inst.clearPlt = (s.exec X i).inst.clearPlt ∧
      ((∀ p, i ≠ .rdplt p) → (s'.exec X i).out = (s.exec X i).out) ∧
      (s'.exec X i).out.map ResponseOf.clearValue = (s.exec X i).out.map ResponseOf.clearValue := by
  by_cases hi : ∀ p, i ≠ .rdplt p
  · have hexec : (s'.exec X i).clearPlt = (s.exec X i).clearPlt := by
      rw [← exec_clearPlt X s hi, ← exec_clearPlt X s' hi, h]
    have hout : (s'.exec X i).out = (s.exec X i).out := (congrArg Sys.out hexec :)
    exact ⟨(congrArg Sys.inst hexec :), fun _ => hout, congrArg _ hout⟩
  · obtain ⟨p, hp⟩ := not_forall_not.1 hi
    obtain ⟨hinst, hout⟩ := exec_rdplt_clearPlt X s p
    obtain ⟨hinst', hout'⟩ := exec_rdplt_clearPlt X s' p
    subst hp
    rw [h] at hinst' hout'
    exact ⟨hinst'.symm.trans hinst, fun hne => absurd rfl (hne p), hout'.symm.trans hout⟩

end

/-- Settles O34: the two states differ in the pilot averages only, so every command leaves them so and answers
alike (`exec_agrees_of_clearPlt`). -/
theorem pilotEstimateFeedsNothing : Obligations.PilotEstimateFeedsNothing := by
  intro i s t q h
  have ht := exec_next_iff.1 h
  obtain ⟨hinst, hout, hvalue⟩ := exec_agrees_of_clearPlt machineEnv i
    (s := s.toSys) (s' := { s.toSys with inst := { s.inst with pltAvg := q } }) rfl
  rw [← ht] at hinst hout hvalue
  exact ⟨_, exec_eq i _, with_pltAvg_eq_of_clearPlt hinst, hout, hvalue⟩

/-! ## Convergence of the estimate (R181, R183) -/

/-- One update takes the share `ALPHA` off the distance to the target, so `n` updates leave `(1 - ALPHA)^n` of it. -/
theorem smooth_iterate {R : Type} [CommRing R] [LinearOrder R] (m : Num R) (x v0 : R) (n : Nat) :
    (fun v => smooth m v x)^[n] v0 = x + (v0 - x) * (1 - m.alpha) ^ n := by
  induction n with
  | zero => simp
  | succ n ih =>
    rw [Function.iterate_succ_apply', ih, smooth]
    ring

theorem refNum_smooth_iterate (z x v0 : ℝ) (n : Nat) :
    (fun v => smooth (refNum z) v x)^[n] v0 = x + (v0 - x) * 0.98 ^ n := by
  have hgain : 1 - (refNum z).alpha = 0.98 := by norm_num [refNum]
  rw [smooth_iterate, hgain]

/-- The error of an estimate that starts at 0. -/
theorem refNum_smooth_error (z x : ℝ) (n : Nat) :
    |(fun v => smooth (refNum z) v x)^[n] 0 - x| = 0.98 ^ n * |x| := by
  have hpow : (0 : ℝ) ≤ 0.98 ^ n := by positivity
  rw [refNum_smooth_iterate, add_sub_cancel_left, zero_sub, neg_mul, abs_neg, abs_mul, abs_of_nonneg hpow, mul_comm]

/-- Settles O48: the error from 0 is `0.98^n·|x|` (`refNum_smooth_error`), which falls with `n`, and 228 is the
first power of 0.98 within 1%. -/
theorem pilotEstimateConverges : Obligations.PilotEstimateConverges := by
  intro z x v0
  simp only [refNum_smooth_error]
  refine ⟨refNum_smooth_iterate z x v0, fun n => ?_, ?_, fun hx => ?_⟩
  · exact mul_le_mul_of_nonneg_right (pow_le_pow_of_le_one (by norm_num) (by norm_num) n.le_succ) (abs_nonneg x)
  · exact mul_le_mul_of_nonneg_right (by norm_num) (abs_nonneg x)
  · exact mul_lt_mul_of_pos_right (by norm_num) (abs_pos.2 hx)

end Sys2Proof.Machine
end

section
/-! PROOFS. The symbol scheduler (44_symbol_scheduler.md): the three segments of a transmit tick (R191 to R194), the
window and the envelope (R195, R196), a receive tick that does not fill the buffer (R197), and the runs of `K` ticks
that make a symbol (R272). -/

set_option linter.unusedSectionVars false

namespace Sys2Proof.Machine

/-! ## `TX.STEP` segment by segment (R191 to R194) -/

section
variable {R : Type} [Zero R] [One R] [Add R] [Sub R] [Neg R] [Mul R] [LinearOrder R] (E : Build R) {S : Inst R}

theorem txSample_fadeIn (buf : Mem R) (j : Nat) :
    txSample E buf 0 j = (Mem.read buf j).re * E.num.window E.cfg.b j := by
  simp [txSample]

theorem txSample_body (buf : Mem R) (j : Nat) {seg : Nat} (h0 : 1 ≤ seg) (hk : seg + 2 ≤ E.cfg.k) :
    txSample E buf seg j = (Mem.read buf (seg * E.cfg.b + j)).re := by
  simp only [txSample]
  rw [if_neg (by omega), if_neg (by omega)]

theorem txSample_fadeOut (buf : Mem R) (j : Nat) (hk : 2 ≤ E.cfg.k) :
    txSample E buf (E.cfg.k - 1) j =
      (Mem.read buf ((E.cfg.k - 1) * E.cfg.b + j)).re * E.num.window E.cfg.b (E.cfg.b - j) := by
  have hlater : E.cfg.k - 1 ≠ 0 := by omega
  simp only [txSample, if_neg hlater, if_true]

/-- At `FADE_IN` the block is the rising first block of the wave just encoded (R192). -/
theorem txBlock_fadeIn (hseg : S.txSeg = 0) :
    txBlock E S = (List.range E.cfg.b).map fun j =>
      ((inverse E (txSpectrum E (sentCodes E S))).getD j Cpx.zero).re * E.num.window E.cfg.b j := by
  rw [txBlock, txEncoded_fadeIn E S hseg, hseg]
  exact List.map_congr_left fun j _ => by rw [txSample_fadeIn, encSym_txBuf, Mem.read_ofList]

/-- In `BODY` the block is the stored one (R193). -/
theorem txBlock_body (h0 : 1 ≤ S.txSeg) (hk : S.txSeg + 2 ≤ E.cfg.k) :
    txBlock E S = (List.range E.cfg.b).map fun j => (Mem.read S.txBuf (S.txSeg * E.cfg.b + j)).re := by
  rw [txBlock, txEncoded_later E S (Nat.one_le_iff_ne_zero.1 h0)]
  exact List.map_congr_left fun j _ => txSample_body E S.txBuf j h0 hk

/-- At `FADE_OUT` the block is the falling last block (R194). -/
theorem txBlock_fadeOut (hseg : S.txSeg = E.cfg.k - 1) (hk : 2 ≤ E.cfg.k) :
    txBlock E S = (List.range E.cfg.b).map fun j =>
      (Mem.read S.txBuf ((E.cfg.k - 1) * E.cfg.b + j)).re * E.num.window E.cfg.b (E.cfg.b - j) := by
  have hlater : S.txSeg ≠ 0 := by omega
  rw [txBlock, txEncoded_later E S hlater, hseg]
  exact List.map_congr_left fun j _ => txSample_fadeOut E S.txBuf j hk

theorem txFetches_body (hk : S.txSeg + 2 ≤ E.cfg.k) : txFetches E S = false := by
  rw [txFetches, decide_eq_false_iff_not]
  omega

theorem txFetches_fadeOut (hseg : S.txSeg = E.cfg.k - 1) : txFetches E S = true := decide_eq_true hseg

theorem txStep_fadeIn (dv : List Byte) (hseg : S.txSeg = 0) (hk : 2 ≤ E.cfg.k) :
    txStep E dv S = { encSym E S with txSeg := 1 } := by
  have hnext : (0 + 1) % E.cfg.k = 1 := Nat.mod_eq_of_lt hk
  simp [txStep, txFetches_fadeIn E hseg hk, hseg, hnext]

theorem txStep_body (dv : List Byte) (h0 : 1 ≤ S.txSeg) (hk : S.txSeg + 2 ≤ E.cfg.k) :
    txStep E dv S = { S with txSeg := S.txSeg + 1 } := by
  have hnext : (S.txSeg + 1) % E.cfg.k = S.txSeg + 1 := Nat.mod_eq_of_lt hk
  simp [txStep, txEncoded_later E S (Nat.one_le_iff_ne_zero.1 h0), txFetches_body E hk, hnext]

theorem txStep_fadeOut (dv : List Byte) (hseg : S.txSeg = E.cfg.k - 1) (hk : 2 ≤ E.cfg.k) :
    txStep E dv S = { S with txDv := dv, txDvValid := true, txSeg := 0 } := by
  have hlater : S.txSeg ≠ 0 := by omega
  have hnext : (E.cfg.k - 1 + 1) % E.cfg.k = 0 := by rw [Nat.sub_add_cancel (by omega), Nat.mod_self]
  simp [txStep, txEncoded_later E S hlater, txFetches_fadeOut E hseg, hseg, hnext]

theorem runTxStep_eq_finish (X : Env R) (s : Sys R) :
    runTxStep X s = s.finish (txStep (X.build s.cfg) (readDatasource s.stepNo (layout s.cfg).dvlen s.ds) s.inst)
      { rc := .ok, txout := some (txBlock (X.build s.cfg) s.inst), dsUsed := txFetches (X.build s.cfg) s.inst } := rfl

end

/-- Settles O17: the tick is `txStep_fadeIn` and `txBlock_fadeIn`; the statement writes `encSym`, `sentCodes` and the
pilot point out. -/
theorem fadeInTick : Obligations.FadeInTick := by
  intro s hact hseg hk
  rw [exec_txtick_run hact, runTxStep_eq_finish, machineEnv_build, txStep_fadeIn (build s.cfg) _ hseg hk,
    txBlock_fadeIn (build s.cfg) hseg, txFetches_fadeIn (build s.cfg) hseg hk]
  rfl

/-- Settles O18: the tick is `txStep_body` and `txBlock_body`. -/
theorem bodyTick : Obligations.BodyTick := by
  intro s hact h0 hk
  rw [exec_txtick_run hact, runTxStep_eq_finish, machineEnv_build, txStep_body (build s.cfg) _ h0 hk,
    txBlock_body (build s.cfg) h0 hk, txFetches_body (build s.cfg) hk]
  rfl

/-- Settles O19: the tick is `txStep_fadeOut` and `txBlock_fadeOut`; the fetched vector is what `readDatasource` reads,
which is the port's when the port carries a whole one. -/
theorem fadeOutTick : Obligations.FadeOutTick := by
  intro s hact hseg hk
  refine ⟨_, readDatasource_length s.stepNo _ s.ds, readDatasource_whole s.stepNo _ s.ds, ?_⟩
  rw [exec_txtick_run hact, runTxStep_eq_finish, machineEnv_build, txStep_fadeOut (build s.cfg) _ hseg hk,
    txBlock_fadeOut (build s.cfg) hseg hk, txFetches_fadeOut (build s.cfg) hseg]
  rfl

/-! ## The window table (R195) -/

theorem windowRise_le_succ (raw : Nat → Rat) (j : Nat) : windowRise raw j ≤ windowRise raw (j + 1) :=
  le_max_left _ _

theorem windowRise_le_half (raw : Nat → Rat) (j : Nat) : windowRise raw j ≤ 1 / 2 := by
  induction j with
  | zero => norm_num [windowRise]
  | succ j ih => exact max_le ih (clamp_le _ (by norm_num))

section
variable {raw : Nat → Nat → Rat} {b j : Nat}

theorem windowOf_low (h : 2 * j < b) : windowOf raw b j = windowRise (raw b) j := if_pos h

theorem windowOf_mid (h : 2 * j = b) : windowOf raw b j = 1 / 2 := by
  rw [windowOf, if_neg (by omega), if_pos h]

theorem windowOf_high (h : b < 2 * j) : windowOf raw b j = 1 - windowRise (raw b) (b - j) := by
  rw [windowOf, if_neg (by omega), if_neg (by omega)]

theorem windowOf_zero (hb : 1 ≤ b) : windowOf raw b 0 = 0 := windowOf_low (by omega)

theorem windowOf_last (hb : 1 ≤ b) : windowOf raw b b = 1 := by
  rw [windowOf_high (by omega), Nat.sub_self, windowRise, sub_zero]

theorem windowOf_add_mirror (hj : j ≤ b) : windowOf raw b j + windowOf raw b (b - j) = 1 := by
  rcases lt_trichotomy (2 * j) b with hlow | hmid | hhigh
  · rw [windowOf_low hlow, windowOf_high (by omega), Nat.sub_sub_self hj, add_sub_cancel]
  · rw [windowOf_mid hmid, windowOf_mid (by omega), add_halves]
  · rw [windowOf_high hhigh, windowOf_low (by omega), sub_add_cancel]

/-- Below the middle the table is at most 1/2, which its mirror image turns into at least 1/2 above the middle. -/
theorem windowOf_le_half (h : 2 * j ≤ b) : windowOf raw b j ≤ 1 / 2 := by
  rcases h.lt_or_eq with hlow | hmid
  · exact windowOf_low hlow ▸ windowRise_le_half (raw b) j
  · exact (windowOf_mid hmid).le

theorem half_le_windowOf (h : b ≤ 2 * j) (hj : j ≤ b) : 1 / 2 ≤ windowOf raw b j := by
  have hsum : windowOf raw b j + windowOf raw b (b - j) = 1 := windowOf_add_mirror hj
  have hmirror : windowOf raw b (b - j) ≤ 1 / 2 := windowOf_le_half (by omega)
  linarith

/-- The table never falls: both neighbours below the middle, on its two sides, or both above it. -/
theorem windowOf_le_succ (hj : j < b) : windowOf raw b j ≤ windowOf raw b (j + 1) := by
  by_cases hlow : 2 * (j + 1) < b
  · rw [windowOf_low (by omega), windowOf_low hlow]
    exact windowRise_le_succ (raw b) j
  · by_cases hhigh : b < 2 * j
    · rw [windowOf_high hhigh, windowOf_high (by omega), show b - j = b - (j + 1) + 1 by omega]
      exact sub_le_sub_left (windowRise_le_succ (raw b) _) 1
    · exact (windowOf_le_half (by omega)).trans (half_le_windowOf (by omega) hj)

end

section
variable (z : ℝ) {b j : Nat}

theorem refNum_window_eq : (refNum z).window b j = (1 - Real.cos (Real.pi * j / b)) / 2 := rfl

theorem refNum_window_zero : (refNum z).window b 0 = 0 := by simp [refNum_window_eq]

theorem refNum_window_last (hb : 1 ≤ b) : (refNum z).window b b = 1 := by
  have hb' : (b : ℝ) ≠ 0 := by positivity
  norm_num [refNum_window_eq, hb']

/-- The cosine falls from 0 to `π`, so the raised cosine rises. -/
theorem refNum_window_le_succ (hj : j < b) : (refNum z).window b j ≤ (refNum z).window b (j + 1) := by
  have hb : (0 : ℝ) < b := by exact_mod_cast (Nat.zero_le j).trans_lt hj
  have hnonneg : 0 ≤ Real.pi * j / b := by positivity
  have hpi : Real.pi * (j + 1 : ℕ) / b ≤ Real.pi := by
    rw [div_le_iff₀ hb]
    gcongr
    exact_mod_cast hj
  have hstep : Real.pi * j / b ≤ Real.pi * (j + 1 : ℕ) / b := by gcongr; exact j.le_succ
  have hcos := Real.cos_le_cos_of_nonneg_of_le_pi hnonneg hpi hstep
  rw [refNum_window_eq, refNum_window_eq]
  linarith

/-- The cosine changes its sign under `x ↦ π - x`. -/
theorem refNum_window_add_mirror (hb : 1 ≤ b) (hj : j ≤ b) :
    (refNum z).window b j + (refNum z).window b (b - j) = 1 := by
  have hb' : (b : ℝ) ≠ 0 := by positivity
  have hmirror : Real.pi * (b - j : ℕ) / b = Real.pi - Real.pi * j / b := by
    rw [Nat.cast_sub hj]
    field_simp
  rw [refNum_window_eq, refNum_window_eq, hmirror, Real.cos_pi_sub]
  ring

end

/-- Settles O49: the machine's table is `windowOf` of free values, which rises to 1/2 at the middle and is mirrored
there; the reference table is the raised cosine. -/
theorem windowTableShape : Obligations.WindowTableShape :=
  ⟨fun _ _ hb => ⟨windowOf_zero hb, windowOf_last hb, fun _ => windowOf_le_succ, fun _ => windowOf_add_mirror⟩,
    fun z _ hb => ⟨refNum_window_zero z, refNum_window_last z hb, fun _ => refNum_window_le_succ z,
      fun _ => refNum_window_add_mirror z hb⟩⟩

/-! ## The envelope (R196) -/

theorem ValidFacts.two_mul_b_le {c : Cfg} (h : ValidFacts c) : 2 * c.b ≤ c.n :=
  h.k_mul_b ▸ Nat.mul_le_mul_right c.b h.k_ge

section
variable {R : Type} [Field R] [LinearOrder R] {E : Build R}

theorem envelope_rise {n : Nat} (hn : n < E.cfg.b) : envelope E n = E.num.window E.cfg.b n := if_pos hn

theorem envelope_flat {n : Nat} (hlow : E.cfg.b ≤ n) (hhigh : n < E.cfg.n - E.cfg.b) : envelope E n = 1 := by
  rw [envelope, if_neg (by omega), if_pos hhigh]

theorem envelope_fall {n : Nat} (hlow : E.cfg.b ≤ n) (hhigh : E.cfg.n - E.cfg.b ≤ n) :
    envelope E n = E.num.window E.cfg.b (E.cfg.n - n) := by
  rw [envelope, if_neg (by omega), if_neg (by omega)]

variable (h : ValidFacts E.cfg)
include h

/-- In each of the three segments a sample is multiplied by the envelope at its place in the symbol. -/
theorem txSample_eq_envelope (buf : Mem R) {seg j : Nat} (hseg : seg < E.cfg.k) (hj : j < E.cfg.b) :
    txSample E buf seg j = (Mem.read buf (seg * E.cfg.b + j)).re * envelope E (seg * E.cfg.b + j) := by
  have hn := h.k_mul_b
  rcases Nat.eq_zero_or_pos seg with rfl | h0
  · rw [txSample_fadeIn, Nat.zero_mul, Nat.zero_add, envelope_rise hj]
  · have hlow : E.cfg.b ≤ seg * E.cfg.b + j := (Nat.le_mul_of_pos_left _ h0).trans (Nat.le_add_right _ _)
    have hsplit : (E.cfg.k - 1) * E.cfg.b + E.cfg.b = E.cfg.n := by
      rw [← Nat.succ_mul, Nat.succ_eq_add_one, Nat.sub_add_cancel (by omega), hn]
    rcases Nat.lt_or_ge (seg + 1) E.cfg.k with hbody | hlast
    · have hle : seg * E.cfg.b + E.cfg.b ≤ (E.cfg.k - 1) * E.cfg.b := mul_add_self_le E.cfg.b (by omega)
      rw [txSample_body E buf j h0 hbody, envelope_flat hlow (by omega), mul_one]
    · obtain rfl : seg = E.cfg.k - 1 := by omega
      have hrest : E.cfg.n - ((E.cfg.k - 1) * E.cfg.b + j) = E.cfg.b - j := by omega
      rw [txSample_fadeOut E buf j h.k_ge, envelope_fall hlow (by omega), hrest]

/-- Where the flat part begins and ends the window has reached 1, so the ends may be counted to either side. -/
theorem envelope_flat_closed (hone : E.num.window E.cfg.b E.cfg.b = 1) {n : Nat} (hlow : E.cfg.b ≤ n)
    (hhigh : n ≤ E.cfg.n - E.cfg.b) : envelope E n = 1 := by
  rcases hhigh.lt_or_eq with hlt | rfl
  · exact envelope_flat hlow hlt
  · have hb := h.two_mul_b_le
    rw [envelope_fall hlow le_rfl, Nat.sub_sub_self (by omega), hone]

theorem envelope_mirror (hone : E.num.window E.cfg.b E.cfg.b = 1) {n : Nat} (hn : n < E.cfg.n) :
    envelope E n = envelope E (E.cfg.n - n) := by
  have hb := h.two_mul_b_le
  have hback : E.cfg.n - (E.cfg.n - n) = n := Nat.sub_sub_self hn.le
  by_cases hrise : n < E.cfg.b
  · rw [envelope_rise hrise, envelope_fall (by omega) (by omega), hback]
  · by_cases hfall : E.cfg.n - E.cfg.b < n
    · rw [envelope_fall (by omega) hfall.le, envelope_rise (by omega)]
    · rw [envelope_flat_closed h hone (by omega) (by omega), envelope_flat_closed h hone (by omega) (by omega)]

end

/-- Settles O50: sample by sample (`txSample_eq_envelope`), on the buffer the tick leaves; the envelope is its own
mirror image (`envelope_mirror`) because the machine's window ends at 1 (`windowOf_last`). -/
theorem envelopeOfSymbol : Obligations.EnvelopeOfSymbol := by
  constructor
  · intro s hvalid hact hseg
    refine ⟨_, _, _, exec_txtick_run hact, rfl, rfl, txBlock_length (build s.cfg) s.inst, fun j hj => ?_⟩
    have hsample := txSample_eq_envelope (E := build s.cfg) ((valid_iff s.cfg).1 hvalid)
      (txEncoded (build s.cfg) s.inst).txBuf hseg hj
    have hget : (txBlock (build s.cfg) s.inst).getD j 0 =
        txSample (build s.cfg) (txEncoded (build s.cfg) s.inst).txBuf s.inst.txSeg j := by simp [txBlock, hj]
    exact hget.trans hsample
  · intro c hvalid n _ hn
    have h := (valid_iff c).1 hvalid
    exact envelope_mirror (E := build c) h (windowOf_last h.b_pos) hn

/-! ## A receive tick that does not fill the buffer (R197) -/

section
variable {R : Type} [Zero R] [One R] [Add R] [Sub R] [Neg R] [Mul R] [LinearOrder R]

/-- A receive tick whose block leaves room in the buffer: the samples are stored and nothing else happens. -/
theorem runRxPush_fill (X : Env R) (v : Bool) {s : Sys R} (hn : s.inst.rxIdx + s.cfg.b < s.cfg.n) :
    runRxPush X v s =
      s.finish (storeBlock s.inst (rxBlock X v s)) { rc := if v then .ok else .starvedInput } := by
  have hlen := rxBlock_length X v s
  rw [runRxPush, rxPush_fill (X.build s.cfg) _ s.inst (hlen.symm ▸ hn)]

end

/-- Settles O21: the tick stores its block (`runRxPush_fill`), which touches the buffer and the index only
(`storeBlock_eq`), in its own range of indices (`storeBlock_read`). -/
theorem receiveTickStoresBlock : Obligations.ReceiveTickStoresBlock := by
  refine ⟨rfl, fun v s hact hwf hn => ?_⟩
  have hlen : (rxBlock machineEnv v s.toSys).length = s.cfg.b := rxBlock_length machineEnv v s.toSys
  refine ⟨rxBlock machineEnv v s.toSys, (storeBlock s.inst (rxBlock machineEnv v s.toSys)).rxBuf, hlen, ?_, ?_, ?_, ?_⟩
  · rintro rfl x hx
    exact List.eq_of_mem_replicate hx
  · rintro rfl hwhole
    exact rxBlock_whole machineEnv hwhole
  · rw [exec_rxtick_run v hact, runRxPush_fill machineEnv v hn, storeBlock_eq, hlen]
    rfl
  · intro a
    rw [storeBlock_read _ _ _ hwf, hlen]
    rfl

/-! ## Runs of steps (R14, R80) -/

/-- A run of the machine is the block's step over and over. -/
theorem run_eq_iterate (k : Nat) : ∀ s : State,
    Sys2Proof.core.run k s = .next { toSys := (Sys.step machineEnv)^[k] s.toSys } := by
  induction k with
  | zero => exact fun s => run_zero s
  | succ k ih => exact fun s => (run_succ k (step_eq s)).trans (ih _)

section
variable {R : Type} [Zero R] [One R] [Add R] [Sub R] [Neg R] [Mul R] [LinearOrder R] (X : Env R) {s : Sys R}

/-- A step takes the oldest pending command off the port, whatever it is. -/
theorem Sys_step_port : (s.step X).port = s.port.tail := by
  rcases Sys_step_cases X (s := s) with ⟨hp, he⟩ | ⟨c, rest, i, hp, -, he⟩ | ⟨c, rest, e, hp, -, he⟩ <;> simp [he, hp]

theorem iterate_step_port (j : Nat) : ((Sys.step X)^[j] s).port = s.port.drop j := by
  induction j with
  | zero => rfl
  | succ j ih => rw [Function.iterate_succ_apply', Sys_step_port, ih, List.tail_drop]

theorem iterate_step_cfg (j : Nat) : ((Sys.step X)^[j] s).cfg = s.cfg := by
  induction j with
  | zero => rfl
  | succ j ih => rw [Function.iterate_succ_apply', Sys_step_cfg, ih]

/-- While commands of the list `cmds` wait, the next step takes one of them. -/
theorem iterate_step_pending {cmds rest : List (CommandOf R)} (hp : s.port = cmds ++ rest) {j : Nat}
    (hj : j < cmds.length) : ∃ c ∈ cmds, ∃ rest', ((Sys.step X)^[j] s).port = c :: rest' := by
  refine ⟨cmds[j], List.getElem_mem hj, cmds.drop (j + 1) ++ rest, ?_⟩
  rw [iterate_step_port, hp, List.drop_append_of_le_length hj.le, List.drop_eq_getElem_cons hj, List.cons_append]

/-- While receive ticks wait, the next step of an active block pushes some `B` samples (R223). -/
theorem iterate_succ_rxtick_inst {cmds rest : List (CommandOf R)} (hp : s.port = cmds ++ rest)
    (hw : ∀ c ∈ cmds, ∃ v : Bool, c.word = encode (.rxtick v)) {j : Nat} (hj : j < cmds.length)
    (hact : ((Sys.step X)^[j] s).inst.active = true) :
    ∃ blk : List R, blk.length = s.cfg.b ∧
      ((Sys.step X)^[j + 1] s).inst = (rxPush (X.build s.cfg) blk ((Sys.step X)^[j] s).inst).1 := by
  obtain ⟨c, hc, rest', hport⟩ := iterate_step_pending X hp hj
  obtain ⟨v, hword⟩ := hw c hc
  have hcfg := iterate_step_cfg X (s := s) j
  refine ⟨rxBlock X v (((Sys.step X)^[j] s).accept c rest'), by rw [rxBlock_length, accept_cfg, hcfg], ?_⟩
  rw [Function.iterate_succ_apply', Sys_step_word X hport (hword ▸ decode_encode rfl), Sys_exec_rxtick,
    if_neg (by simp [hact]), runRxPush_inst, accept_cfg, hcfg, accept_inst]

/-- While transmit ticks with a buffer wait, the next step of an active block is `TX.STEP` (R222). -/
theorem iterate_succ_txtick_inst {cmds rest : List (CommandOf R)} (hp : s.port = cmds ++ rest)
    (hw : ∀ c ∈ cmds, c.word = encode (.txtick true)) {j : Nat} (hj : j < cmds.length)
    (hact : ((Sys.step X)^[j] s).inst.active = true) :
    ∃ dv, ((Sys.step X)^[j + 1] s).inst = txStep (X.build s.cfg) dv ((Sys.step X)^[j] s).inst := by
  obtain ⟨c, hc, rest', hport⟩ := iterate_step_pending X hp hj
  have hcfg := iterate_step_cfg X (s := s) j
  rw [Function.iterate_succ_apply', Sys_step_word X hport (hw c hc ▸ decode_encode rfl), Sys_exec_txtick,
    if_neg (by simp [hact]), if_neg (by decide), runTxStep_inst, accept_cfg, hcfg, accept_inst]
  exact ⟨_, rfl⟩

end

/-! ## `K` receive ticks (R198, R272) -/

section
variable {R : Type} [Zero R] [One R] [Add R] [Sub R] [Neg R] [Mul R] [LinearOrder R] (X : Env R) {s : Sys R}
  {cmds rest : List (CommandOf R)} (hvalid : ValidFacts s.cfg) (hact : s.inst.active = true)
  (h0 : s.inst.rxIdx = 0) (hp : s.port = cmds ++ rest) (hlen : cmds.length = s.cfg.k)
  (hw : ∀ c ∈ cmds, ∃ v : Bool, c.word = encode (.rxtick v))
include hvalid hact h0 hp hlen hw

/-- Before the `K`-th tick only the buffer and its index have moved. -/
theorem iterate_rxtick_inst (j : Nat) (hj : j < s.cfg.k) :
    ∃ buf, ((Sys.step X)^[j] s).inst = { s.inst with rxBuf := buf, rxIdx := j * s.cfg.b } := by
  induction j with
  | zero =>
    have hself : s.inst = { s.inst with rxIdx := 0 } := by rw [← h0]
    rw [Nat.zero_mul]
    exact ⟨s.inst.rxBuf, hself⟩
  | succ j ih =>
    obtain ⟨buf, hinst⟩ := ih (by omega)
    obtain ⟨blk, hblk, hnext⟩ := iterate_succ_rxtick_inst X hp hw (j := j) (by omega) (by rw [hinst]; exact hact)
    have hroom : j * s.cfg.b + s.cfg.b < s.cfg.n := by
      rw [← Nat.succ_mul, ← hvalid.k_mul_b]
      exact Nat.mul_lt_mul_of_pos_right hj hvalid.b_pos
    rw [hnext, hinst, rxPush_fill _ _ _ (hblk.symm ▸ hroom), storeBlock_eq, hblk, Nat.succ_mul]
    exact ⟨_, rfl⟩

/-- The `K`-th tick decodes and starts over. -/
theorem iterate_k_rxtick_inst :
    ((Sys.step X)^[s.cfg.k] s).inst.rxIdx = 0 ∧
      ((Sys.step X)^[s.cfg.k] s).inst.rxSymCnt = bumpCounter s.cfg s.inst.rxSymCnt ∧
      ((Sys.step X)^[s.cfg.k] s).inst.rxFirstDone = true := by
  obtain ⟨j, hk⟩ : ∃ j, s.cfg.k = j + 1 := ⟨s.cfg.k - 1, by have := hvalid.k_ge; omega⟩
  obtain ⟨buf, hinst⟩ := iterate_rxtick_inst X hvalid hact h0 hp hlen hw j (by omega)
  obtain ⟨blk, hblk, hnext⟩ := iterate_succ_rxtick_inst X hp hw (j := j) (by omega) (by rw [hinst]; exact hact)
  have hfull : j * s.cfg.b + s.cfg.b = s.cfg.n := by rw [← Nat.succ_mul, ← hvalid.k_mul_b, hk]
  have hne : blk ≠ [] := List.ne_nil_of_length_pos (hblk.symm ▸ hvalid.b_pos)
  rw [hk, hnext, hinst, rxPush_decode _ _ _ hne (hblk.symm ▸ hfull), storeBlock_eq]
  exact ⟨rfl, rfl, rfl⟩

end

/-- Settles O36: `iterate_rxtick_inst` before the last tick, `iterate_k_rxtick_inst` after it. -/
theorem receiveSymbolTakesKTicks : Obligations.ReceiveSymbolTakesKTicks := by
  intro s cmds rest hinv hact h0 hp hlen hw
  have hvalid : ValidFacts s.cfg := validFacts_of_active (X := machineEnv) hinv hact
  refine ⟨fun j hj => ⟨_, run_eq_iterate j s, ?_⟩, _, run_eq_iterate s.cfg.k s, ?_⟩
  · obtain ⟨buf, hinst⟩ := iterate_rxtick_inst machineEnv hvalid hact h0 hp hlen hw j hj
    rw [hinst]
    exact ⟨rfl, rfl, rfl⟩
  · obtain ⟨hidx, hcnt, hdone⟩ := iterate_k_rxtick_inst machineEnv hvalid hact h0 hp hlen hw
    have hport : ((Sys.step machineEnv)^[s.cfg.k] s.toSys).port = rest := by
      rw [iterate_step_port, hp, ← hlen, List.drop_left]
    exact ⟨hidx, hport, hcnt, hdone⟩

/-! ## `K` transmit ticks (R191, R272) -/

section
variable {R : Type} [Zero R] [One R] [Add R] [Sub R] [Neg R] [Mul R] [LinearOrder R] (X : Env R) {s : Sys R}
  {cmds rest : List (CommandOf R)} (hk : 2 ≤ s.cfg.k) (hact : s.inst.active = true)
  (h0 : s.inst.txSeg = 0) (hp : s.port = cmds ++ rest) (hlen : cmds.length = s.cfg.k)
  (hw : ∀ c ∈ cmds, c.word = encode (.txtick true))
include hk hact h0 hp hlen hw

/-- From the first tick to the last but one the symbol encoded by the first is sent, block after block. -/
theorem iterate_txtick_inst (j : Nat) (h1 : 1 ≤ j) (hj : j < s.cfg.k) :
    ((Sys.step X)^[j] s).inst = { encSym (X.build s.cfg) s.inst with txSeg := j } := by
  induction j, h1 using Nat.le_induction with
  | base =>
    obtain ⟨dv, hnext⟩ := iterate_succ_txtick_inst X hp hw (j := 0) (by omega) hact
    exact hnext.trans (txStep_fadeIn (X.build s.cfg) dv h0 hk)
  | succ j h1 ih =>
    have hinst := ih (by omega)
    obtain ⟨dv, hnext⟩ := iterate_succ_txtick_inst X hp hw (j := j) (by omega) (by rw [hinst]; exact hact)
    rw [hnext, hinst]
    exact txStep_body (X.build s.cfg) dv h1 hj

/-- The `K`-th tick fetches a Data Vector and ends the symbol. -/
theorem iterate_k_txtick_inst : ∃ dv, ((Sys.step X)^[s.cfg.k] s).inst =
    { encSym (X.build s.cfg) s.inst with txDv := dv, txDvValid := true, txSeg := 0 } := by
  obtain ⟨j, hj⟩ : ∃ j, s.cfg.k = j + 1 := ⟨s.cfg.k - 1, by omega⟩
  have hinst := iterate_txtick_inst X hk hact h0 hp hlen hw j (by omega) (by omega)
  obtain ⟨dv, hnext⟩ := iterate_succ_txtick_inst X hp hw (j := j) (by omega) (by rw [hinst]; exact hact)
  have hlast : j = (X.build s.cfg).cfg.k - 1 := by rw [Env_build_cfg, hj, Nat.add_sub_cancel]
  rw [hj, hnext, hinst]
  exact ⟨dv, txStep_fadeOut (X.build s.cfg) dv hlast hk⟩

end

/-- Settles O37: `iterate_txtick_inst` before the last tick, `iterate_k_txtick_inst` after it. -/
theorem transmitSymbolTakesKTicks : Obligations.TransmitSymbolTakesKTicks := by
  intro s cmds rest hinv hact h0 hp hlen hw
  have hk : 2 ≤ s.cfg.k := (validFacts_of_active (X := machineEnv) hinv hact).k_ge
  refine ⟨fun j h1 hj => ⟨_, run_eq_iterate j s, ?_⟩, _, run_eq_iterate s.cfg.k s, ?_⟩
  · rw [iterate_txtick_inst machineEnv hk hact h0 hp hlen hw j h1 hj]
    exact ⟨rfl, rfl, rfl⟩
  · obtain ⟨dv, hinst⟩ := iterate_k_txtick_inst machineEnv hk hact h0 hp hlen hw
    have hport : ((Sys.step machineEnv)^[s.cfg.k] s.toSys).port = rest := by
      rw [iterate_step_port, hp, ← hlen, List.drop_left]
    rw [hinst]
    exact ⟨rfl, rfl, hport, rfl⟩

end Sys2Proof.Machine
end

section
/-! PROOFS. The host commands (45_host_commands.md): what `NOP`, `RST`, the skipped ticks and the reads answer (R220 to
R227), what a word that stands for no command answers (R230), and which command calls `DATASOURCE` (R229). -/

set_option linter.unusedSectionVars false

namespace Sys2Proof.Machine

/-! ## A word that stands for no command (R230) -/

/-- A word that the decoder rejects and a word of the reserved range are answered alike. -/
theorem step_badCommand {s : State} {c : Command} {rest : List Command} (hp : s.port = c :: rest)
    (hw : (∃ e, decode c.word = .error e) ∨ 8 ≤ opField c.word) :
    step s = .next { toSys := badCommand (s.toSys.accept c rest) } := by
  rcases hw with ⟨e, he⟩ | hop
  · exact step_rejected hp he
  · rw [step_word hp (decode_reserved hop), exec_eq, Sys_exec_reserved]

/-- Settles O11: the words of the statement are the rejected ones (`rejectedWordsSetMustBeZeroBits`) and the reserved ones;
`step_badCommand` answers both. -/
theorem badCommandChangesNothing : Obligations.BadCommandChangesNothing := by
  refine ⟨rfl, fun s c rest hp hw => step_badCommand hp ?_⟩
  rw [← or_assoc, ← rejectedWordsSetMustBeZeroBits, ← opField_eq] at hw
  exact hw

/-! ## `DATASOURCE` (R71, R222, R229) -/

section
variable {R : Type} [Zero R] [One R] [Add R] [Sub R] [Neg R] [Mul R] [LinearOrder R] (X : Env R) {s : Sys R}

theorem runTxStep_dsUsed {r : ResponseOf R} (hr : (runTxStep X s).out = some r) :
    r.dsUsed = true ↔ s.inst.txSeg = s.cfg.k - 1 := by
  cases hr
  exact decide_eq_true_iff

/-- A command that runs no `TX.STEP` consumes nothing from the `DATASOURCE` port. -/
theorem Sys_exec_dsUsed_of_no_txStep {i : Instr} {r : ResponseOf R} (hi : ¬(i = .txtick true ∧ s.inst.active = true))
    (hr : (s.exec X i).out = some r) : r.dsUsed = false := by
  cases i with
  | txtick a =>
    rcases Sys_txtick_cases X (s := s) a with ⟨-, he⟩ | ⟨-, -, he⟩ | ⟨hact, rfl, -⟩
    · cases he ▸ hr
      rfl
    · cases he ▸ hr
      rfl
    · exact absurd ⟨rfl, hact⟩ hi
  | rxtick v =>
    rcases Sys_rxtick_cases X (s := s) v with ⟨-, he⟩ | ⟨-, he⟩ <;> cases he ▸ hr <;> rfl
  | rdplt p =>
    rcases Sys_rdplt_cases X (s := s) p with ⟨-, he⟩ | ⟨-, he⟩ <;> cases he ▸ hr <;> rfl
  | nop | rst | rdsts | rdtxc | rdrxc | reserved _ =>
    cases hr
    rfl

end

/-- Settles O31: a `TX.STEP` fetches exactly at `FADE_OUT` (`runTxStep_dsUsed`), and no other command fetches
(`Sys_exec_dsUsed_of_no_txStep`). -/
theorem datasourceOnlyAtFadeOut : Obligations.DatasourceOnlyAtFadeOut := by
  intro i s t r hexec hr
  by_cases hi : i = .txtick true ∧ s.inst.active = true
  · obtain ⟨rfl, hact⟩ := hi
    cases (exec_txtick_run hact).symm.trans hexec
    simp [runTxStep_dsUsed machineEnv hr, hact]
  · rw [exec_next_iff.1 hexec] at hr
    rw [Sys_exec_dsUsed_of_no_txStep machineEnv hi hr]
    exact iff_of_false Bool.false_ne_true fun ⟨htick, hact, _⟩ => hi ⟨htick, hact⟩

/-! ## `NOP` (R220) -/

/-- Settles O12: the word is `NOP`'s row of the table (`tableWordsDecode`), and `NOP` ends with the response alone
(`Sys_exec_nop`). -/
theorem nopOnlyAnswers : Obligations.NopOnlyAnswers :=
  ⟨rfl, tableWordsDecode.1, rfl, exec_eq .nop⟩

/-! ## `RST` (R221) -/

/-- `VALID(CFG)` in the arithmetic of R10's clauses (a) to (e). -/
theorem valid_iff_clauses (c : Cfg) : c.valid = true ↔
    ((∃ e : Nat, c.n = 2 ^ e) ∧ c.n ∈ c.nSupported) ∧
    (1 ≤ c.b ∧ c.b ∣ c.n ∧ 2 ≤ c.n / c.b) ∧
    (1 ≤ c.channelMin ∧ 1 ≤ c.channels ∧ (c.channelMin : Int) + c.channels - 1 ≤ c.n / 2 - 1) ∧
    (1 ≤ c.chunkData ∧ c.channels % (c.chunkData + 2) = 0 ∧ c.pilotOfs ≤ c.chunkData) ∧
    c.channels / (c.chunkData + 2) ≤ 4096 := by
  rw [valid_iff]
  constructor
  · intro h
    have hmax := h.max_le
    have hmin := h.min_pos
    rw [Cfg.channelMax] at hmax
    exact ⟨⟨h.pow2, h.supported⟩, ⟨h.b_pos, h.b_dvd, h.k_ge⟩, ⟨hmin, h.channels_pos, by omega⟩,
      ⟨h.chunk_pos, h.whole, h.ofs_le⟩, h.p_le⟩
  · rintro ⟨⟨hpow, hsup⟩, ⟨hb, hdvd, hk⟩, ⟨hmin, hch, hmax⟩, ⟨hchunk, hwhole, hofs⟩, hp⟩
    have hmax' : c.channelMax + 1 ≤ c.n / 2 := by rw [Cfg.channelMax]; omega
    exact ⟨hpow, hsup, hb, hdvd, hk, hmin, hch, hmax', hchunk, hwhole, hofs, hp⟩

/-- Settles O14: `RST` writes `rstInst` (`Sys_exec_rst`), whose two unspecified elements have the layout's lengths; the
configurations it activates are R10's (`valid_iff_clauses`). -/
theorem rstPutsResetValues : Obligations.RstPutsResetValues := by
  refine ⟨fun s => ⟨(rstInst machineEnv s.cfg).txDv, (rstInst machineEnv s.cfg).rxPhase, ?_, ?_, exec_eq .rst s⟩,
    valid_iff_clauses⟩
  · rw [rstInst, resetInst_txDv, List.length_map, List.length_range]
  · rw [rstInst, resetInst_rxPhase, List.length_map, List.length_range]

/-- Settles O15: the new instance and the response are functions of the configuration (`Sys_exec_rst`), which `RST`
keeps. -/
theorem rstTwiceIsRstOnce : Obligations.RstTwiceIsRstOnce := by
  intro s t u hst htu
  rw [exec_next_iff.1 htu, exec_next_iff.1 hst]
  simp only [Sys_exec_rst, finish_inst, finish_out, finish_cfg, and_self]

/-! ## Skipped ticks (R222, R223) -/

/-- Settles O16: an inactive instance skips every transmit tick, an active one those without a buffer; both raise a
condition, which leaves the instance. -/
theorem skippedTransmitTick : Obligations.SkippedTransmitTick :=
  ⟨rfl, rfl, fun a _ hact => exec_txtick_inactive a hact, fun _ hact => exec_txtick_noBuffer hact⟩

/-- Settles O20: a receive tick on an inactive instance raises `Inactive`, whatever `V` is. -/
theorem inactiveReceiveTick : Obligations.InactiveReceiveTick :=
  fun v _ hact => exec_rxtick_inactive v hact

/-! ## Reads (R225 to R227) -/

/-- A counter that fits the data word is read whole (R103). -/
theorem counterWord_toNat {n : Nat} (hn : n < 2 ^ 32) : (counterWord n).toNat = n := by
  rw [counterWord, if_pos hn, BitVec.toNat_ofNat, Nat.mod_eq_of_lt hn]

/-- Settles O24: both reads answer the `counterWord` of their counter, which is its value below `2^32`. -/
theorem counterReadsAnswerCounters : Obligations.CounterReadsAnswerCounters :=
  fun s => ⟨counterWord s.inst.txSymCnt, counterWord s.inst.rxSymCnt, exec_eq .rdtxc s, exec_eq .rdrxc s,
    counterWord_toNat, counterWord_toNat⟩

/-- The number of pilot pairs of any configuration: R6's quotient, or none (R271). -/
theorem layout_p_eq_ite (c : Cfg) : (layout c).p = if c.valid then c.channels / (c.chunkData + 2) else 0 := by
  cases hv : c.valid
  · rw [layout_invalid hv]
    rfl
  · rw [layout_valid hv]
    rfl

/-- Settles O25: the pair index is compared with the layout's `P` (`Sys_exec_rdplt`), which is `layout_p_eq_ite`. -/
theorem rdpltAnswersAverage : Obligations.RdpltAnswersAverage := by
  refine ⟨rfl, fun p s hp => ?_, fun p s hp => ?_, layout_p_eq_ite⟩
  · rw [exec_eq, Sys_exec_rdplt, if_neg (Nat.not_le.2 hp)]
    rfl
  · rw [exec_eq, Sys_exec_rdplt, if_pos hp]
    rfl

end Sys2Proof.Machine
end

section
/-! PROOFS. Exceptions (60_exceptions.md): an inactive instance stays inactive and silent (R245), the order among the
conditions (R247), a command that ends with one leaves `S` as it was (R248), and the Data Vectors the application sees
are whole (R250). -/

set_option linter.unusedSectionVars false

namespace Sys2Proof.Machine

/-! ## The order among the conditions (R247) -/

theorem exec_rdplt_badArgument {s : State} {p : Nat} (hp : (layout s.cfg).p ≤ p) :
    exec (.rdplt p) s = .next { toSys := raise .badArgument s.toSys } := by
  rw [exec_eq, Sys_exec_rdplt, if_pos hp]

/-- A meaning that ends with a condition answers the condition's response. -/
theorem out_of_raise {o : Result} {rc : Rc} {s : Sys Rat} {t : State} (hraise : o = .next { toSys := raise rc s })
    (h : o = .next t) : t.out = some { rc := rc } := by
  cases hraise.symm.trans h
  rfl

/-- Settles O26: each clause's own hypothesis is all that its command tests before it raises the condition; the starved
tick runs, and answers its code after that. -/
theorem conditionPriority : Obligations.ConditionPriority := by
  refine ⟨fun a _ _ hoff => out_of_raise (exec_txtick_inactive a hoff),
    fun v _ _ hoff => out_of_raise (exec_rxtick_inactive v hoff),
    fun _ _ _ hp => out_of_raise (exec_rdplt_badArgument hp),
    fun _ _ _ _ _ hp hd => out_of_raise (step_rejected hp hd),
    fun x s _ => out_of_raise (exec_eq (.reserved x) s),
    fun _ _ hact => out_of_raise (exec_txtick_noBuffer hact), ?_⟩
  intro s t r hact h hr
  cases (exec_rxtick_run false hact).symm.trans h
  cases hr
  rfl

/-! ## Conditions are precise (R248) -/

theorem eq_raise_of_out {R : Type} [Zero R] {s t : Sys R} {rc : Rc} {r : ResponseOf R} (he : t = raise rc s)
    (hr : t.out = some r) : t = raise r.rc s := by
  cases he
  cases hr
  rfl

section
variable {R : Type} [Field R] [LinearOrder R] [IsStrictOrderedRing R] {X : Env R} {s : Sys R}
  (h : Sys.Invariant X.num s)
include h

/-- `RST` on an inactive instance finds `S` as it would leave it (R245). -/
theorem rstInst_eq_of_inactive (hoff : s.inst.active = false) : rstInst X s.cfg = s.inst :=
  (resetInst_invalid (h.active_eq ▸ hoff) _ _).trans (h.inactive hoff).symm

/-- So `RST` with an invalid configuration ends as a condition does: it answers code 1 and nothing moves. -/
theorem Sys_exec_rst_of_inactive (hoff : s.inst.active = false) : s.exec X .rst = raise .inactive s := by
  rw [Sys_exec_rst, rstInst_eq_of_inactive h hoff, ← h.active_eq, hoff]
  rfl

/-- A command that answers response code 1, 2, 4 or 5 has raised that condition and done nothing else. -/
theorem Sys_exec_eq_raise {i : Instr} {r : ResponseOf R} (hr : (s.exec X i).out = some r)
    (hrc : r.rc ∈ [Rc.inactive, Rc.txNoBuffer, Rc.badCommand, Rc.badArgument]) : s.exec X i = raise r.rc s := by
  cases i with
  | rst =>
    cases hact : s.inst.active with
    | false => exact eq_raise_of_out (Sys_exec_rst_of_inactive h hact) hr
    | true =>
      rw [Sys_exec_rst, ← h.active_eq, hact] at hr
      cases hr
      simp at hrc
  | txtick a =>
    rcases Sys_txtick_cases X (s := s) a with ⟨-, he⟩ | ⟨-, -, he⟩ | ⟨-, -, he⟩
    · exact eq_raise_of_out he hr
    · exact eq_raise_of_out he hr
    · cases he ▸ hr
      simp at hrc
  | rxtick v =>
    rcases Sys_rxtick_cases X (s := s) v with ⟨-, he⟩ | ⟨-, he⟩
    · exact eq_raise_of_out he hr
    · cases he ▸ hr
      cases v <;> simp at hrc
  | rdplt p =>
    rcases Sys_rdplt_cases X (s := s) p with ⟨-, he⟩ | ⟨-, he⟩
    · exact eq_raise_of_out he hr
    · cases he ▸ hr
      simp at hrc
  | reserved x => exact eq_raise_of_out (Sys_exec_reserved X x) hr
  | nop | rdsts | rdtxc | rdrxc =>
    cases hr
    simp at hrc

end

/-- Settles O27: the command is `raise` of its response code (`Sys_exec_eq_raise`), which writes the response alone. -/
theorem conditionsArePrecise : Obligations.ConditionsArePrecise := by
  intro i s t r hs h hr hrc
  rw [exec_next_iff.1 h] at hr ⊢
  have he := Sys_exec_eq_raise (X := machineEnv) hs hr hrc
  rw [he, raise_out] at hr
  rw [he, raise_inst, ← Option.some.inj hr]
  exact ⟨rfl, rfl, rfl, rfl, rfl, rfl⟩

/-! ## An inactive instance (R245) -/

/-- A response without an event: nothing on `TXOUT` or to `LISTENER`, and no call of `DATASOURCE` (R70, R71). -/
def ResponseOf.Silent {R : Type} [Zero R] (r : ResponseOf R) : Prop :=
  r.txout = none ∧ r.listener = [] ∧ r.dsUsed = false

section
variable {R : Type} [Field R] [LinearOrder R] [IsStrictOrderedRing R] {X : Env R} {s : Sys R}
  (h : Sys.Invariant X.num s) (hoff : s.inst.active = false)
include h hoff

/-- Every command on an inactive instance leaves `S` as it is and answers without an event. -/
theorem Sys_exec_of_inactive (i : Instr) : ∃ r : ResponseOf R, s.exec X i = s.finish s.inst r ∧ r.Silent := by
  cases i with
  | rst => exact ⟨_, Sys_exec_rst_of_inactive h hoff, rfl, rfl, rfl⟩
  | txtick a => exact ⟨_, (Sys_exec_txtick X a).trans (if_pos hoff), rfl, rfl, rfl⟩
  | rxtick v => exact ⟨_, (Sys_exec_rxtick X v).trans (if_pos hoff), rfl, rfl, rfl⟩
  | rdplt p =>
    rcases Sys_rdplt_cases X (s := s) p with ⟨-, he⟩ | ⟨-, he⟩ <;> exact ⟨_, he, rfl, rfl, rfl⟩
  | nop | rdsts | rdtxc | rdrxc | reserved _ => exact ⟨_, rfl, rfl, rfl, rfl⟩

/-- A step of an inactive block holds the state or answers a pending command without an event. -/
theorem Sys_step_of_inactive : (s.step X).inst = s.inst ∧
    (s.port ≠ [] → ∃ r : ResponseOf R, (s.step X).out = some r ∧ r.Silent) := by
  rcases Sys_step_cases X (s := s) with ⟨hp, he⟩ | ⟨c, rest, i, -, -, he⟩ | ⟨c, rest, e, -, -, he⟩
  · exact ⟨by rw [he], absurd hp⟩
  · have haccept : Sys.Invariant X.num (s.accept c rest) := invariant_congr h rfl rfl
    obtain ⟨r, hexec, hr⟩ := Sys_exec_of_inactive haccept hoff i
    rw [he, hexec]
    exact ⟨rfl, fun _ => ⟨r, rfl, hr⟩⟩
  · rw [he]
    exact ⟨rfl, fun _ => ⟨_, rfl, rfl, rfl, rfl⟩⟩

/-- No number of steps changes an inactive instance. -/
theorem iterate_step_inst_of_inactive (k : Nat) : ((Sys.step X)^[k] s).inst = s.inst := by
  induction k with
  | zero => rfl
  | succ k ih =>
    have hk : Sys.Invariant X.num ((Sys.step X)^[k] s) := invariant_congr h (iterate_step_cfg X k) ih
    rw [Function.iterate_succ_apply', (Sys_step_of_inactive hk (ih ▸ hoff)).1, ih]

end

/-- Settles O6: the state the run reaches has the same instance (`iterate_step_inst_of_inactive`), so it meets the
invariant too, and its next step is silent (`Sys_step_of_inactive`). -/
theorem inactiveForEver : Obligations.InactiveForEver := by
  intro k s t hs hoff hrun
  rw [run_eq_iterate] at hrun
  cases hrun
  have hinst := iterate_step_inst_of_inactive (X := machineEnv) hs hoff k
  have hinv : Sys.Invariant num ((Sys.step machineEnv)^[k] s.toSys) :=
    invariant_congr hs (iterate_step_cfg machineEnv k) hinst
  refine ⟨hinst, fun u hu hport => ?_⟩
  rw [step_eq] at hu
  cases hu
  exact (Sys_step_of_inactive (X := machineEnv) hinv (hinst ▸ hoff)).2 hport

/-! ## Delivered Data Vectors (R250) -/

section
variable {R : Type} [Zero R] [One R] [Add R] [Sub R] [Neg R] [Mul R] [LinearOrder R] (E : Build R)

/-- The fields of a decoded vector behind the last data channel are 0 (R167). -/
theorem dvGet_decodedDv_unused (S : Inst R) {d : Nat} (hd : (layout E.cfg).d ≤ d) : dvGet (decodedDv E S) d = 0 := by
  rw [decodedDv, dvGet_decodeFields, if_neg hd.not_gt]

theorem eq_decodedDv_of_mem_decEvents {S : Inst R} {dv : List Byte} (h : dv ∈ decEvents E S) :
    dv = decodedDv E S := by
  unfold decEvents at h
  split at h
  · exact List.mem_singleton.1 h
  · exact absurd h List.not_mem_nil

/-- The Data Vectors that `RX.PUSH` has delivered come from the decoder, whatever the fill index was (R168, R197). -/
theorem exists_decodedDv_of_mem_rxPush (blk : List R) (S : Inst R) :
    ∀ dv ∈ (rxPush E blk S).2, ∃ T : Inst R, dv = decodedDv E T := by
  refine List.foldlRecOn blk (pushSample E) ?_ ?_
    (motive := fun acc => ∀ dv ∈ acc.2, ∃ T : Inst R, dv = decodedDv E T)
  · exact List.forall_mem_nil _
  · intro acc ih x _ dv hdv
    simp only [pushSample] at hdv
    split at hdv
    · rcases List.mem_append.1 hdv with hold | hnew
      · exact ih dv hold
      · exact ⟨_, eq_decodedDv_of_mem_decEvents E hnew⟩
    · exact ih dv hdv

end

/-- Settles O33: a delivered vector comes from the decoder (`exists_decodedDv_of_mem_rxPush`), which packs `D` fields
into `DVLEN` zero bytes (`decodedDv_length`, `dvGet_decodedDv_unused`). -/
theorem listenerVectorsAreWhole : Obligations.ListenerVectorsAreWhole := by
  intro v s t r dv h hr hdv
  rw [exec_next_iff.1 h] at hr
  rcases Sys_rxtick_cases machineEnv (s := s.toSys) v with ⟨-, he⟩ | ⟨-, he⟩
  · cases he ▸ hr
    exact absurd hdv List.not_mem_nil
  · cases he ▸ hr
    obtain ⟨T, rfl⟩ := exists_decodedDv_of_mem_rxPush (machineEnv.build s.cfg) _ _ dv hdv
    exact ⟨decodedDv_length _ _, fun _ => dvGet_decodedDv_unused (machineEnv.build s.cfg) T⟩

end Sys2Proof.Machine
end
